-- ==== Sys2Proof/Word.lean ====
section
/-!
DEFINITION. The word types of the machine: 64-bit words and 8-bit bytes (00_scope.md R5, R6, R12).
-/

namespace Sys2Proof

/-- A 64-bit word: a general register, a code or data address (R5, R6). -/
abbrev Word := BitVec 64

/-- A byte of memory or of an instruction (R13, R70). -/
abbrev Byte := BitVec 8

/-- A general register number (R21). -/
abbrev Reg := BitVec 8

/-- A branch register number (R23). -/
abbrev BReg := BitVec 4

/-- A predicate register number (R30). -/
abbrev PReg := BitVec 4

/-- A special purpose register number (R41). -/
abbrev SprNum := BitVec 8

end Sys2Proof
end

