-- ==== Sys2Proof/Syntax.lean ====
section
/-!
DEFINITION. The abstract syntax: one constructor of `Instr` for each row of spec/opcode_table.json
(30_encoding.md R110 to R130). Field order is the order of the fields in the encoding, low bits first.
-/

namespace Sys2Proof

/-- The predicate conditions of 10_state.md R34, by the name TG gives them. Codes 12, 14 and 15 are reserved (R112). -/
inductive Cond where
  | pf | pt | peq | pne | ple | pgt | pge | plt | pleu | pgtu | pgeu | pltu | psig
  deriving DecidableEq, Repr

/-- The predicate of an ordinary instruction: predicate register `pn` and condition `cond` (R110). -/
structure Pred where
  pn   : PReg
  cond : Cond
  deriving DecidableEq, Repr

/-- The register-immediate arithmetic and logic instructions, all of which accept a prefix (R119). -/
inductive ImmOp where
  | addi | subi | addui | subui | andi | ori | eori | addui2 | addui4 | addui8 | addui16
  deriving DecidableEq, Repr

/-- The displacement loads that accept a prefix (R119, R279). -/
inductive LoadOp where
  | lb | lbu | lc | lcu | lh | lhu | lw | lvb | lvc | lvh | lvw
  deriving DecidableEq, Repr

/-- The displacement stores that accept a prefix (R119, R279). -/
inductive StoreOp where
  | sb | sc | sh | sw
  deriving DecidableEq, Repr

/-- The instructions that accept an immediate prefix, as they stand behind one (R116, R119). `jsr` covers JSR,
BSR (br = 15) and JMP (brt = 0); under a prefix only the low byte of `off` counts (R122). -/
inductive Ext where
  | alu   (op : ImmOp) (p : Pred) (ra rt : Reg) (imm : BitVec 8)
  | cmpi  (p : Pred) (pt : PReg) (ra : Reg) (imm : BitVec 8)
  | ldi   (p : Pred) (rt : Reg) (imm : BitVec 8)
  | ldis  (p : Pred) (spr : SprNum) (imm : BitVec 8)
  | load  (op : LoadOp) (p : Pred) (ra rt : Reg) (off : BitVec 8)
  | lws   (p : Pred) (ra : Reg) (spr : SprNum) (off : BitVec 8)
  | store (op : StoreOp) (p : Pred) (ra rs : Reg) (off : BitVec 8)
  | sws   (p : Pred) (ra : Reg) (spr : SprNum) (off : BitVec 8)
  | cas   (p : Pred) (ra rb rc rt : Reg) (off : BitVec 8)
  | jsr   (p : Pred) (brt br : BReg) (off : BitVec 24)
  deriving DecidableEq, Repr

/-- The instructions. A prefix row holds the prefix's bytes and the instruction it extends, since the two are
one architectural instruction (R116); `addu2` is TG's 2ADDU, and so on. -/
inductive Instr where
  -- one-byte instructions and prefixes (R111, R114)
  | brk
  | nop
  | rtsShort
  | imm16 (k : BitVec 8)  (e : Ext)
  | imm24 (k : BitVec 16) (e : Ext)
  | imm32 (k : BitVec 24) (e : Ext)
  | imm40 (k : BitVec 32) (e : Ext)
  | imm48 (k : BitVec 40) (e : Ext)
  | imm56 (k : BitVec 48) (e : Ext)
  | imm64 (k : BitVec 56) (e : Ext)
  -- compares and the relative branch (R123)
  | tst  (p : Pred) (pt : PReg) (ra : Reg)
  | cmp  (p : Pred) (pt : PReg) (ra rb : Reg)
  | cmpi (p : Pred) (pt : PReg) (ra : Reg) (imm : BitVec 8)
  | br   (p : Pred) (disp : BitVec 12)
  -- arithmetic and logic (R124)
  | add    (p : Pred) (ra rb rt : Reg)
  | sub    (p : Pred) (ra rb rt : Reg)
  | addu   (p : Pred) (ra rb rt : Reg)
  | subu   (p : Pred) (ra rb rt : Reg)
  | and    (p : Pred) (ra rb rt : Reg)
  | or     (p : Pred) (ra rb rt : Reg)
  | eor    (p : Pred) (ra rb rt : Reg)
  | addu2  (p : Pred) (ra rb rt : Reg)
  | addu4  (p : Pred) (ra rb rt : Reg)
  | addu8  (p : Pred) (ra rb rt : Reg)
  | addu16 (p : Pred) (ra rb rt : Reg)
  | addi    (p : Pred) (ra rt : Reg) (imm : BitVec 8)
  | subi    (p : Pred) (ra rt : Reg) (imm : BitVec 8)
  | addui   (p : Pred) (ra rt : Reg) (imm : BitVec 8)
  | subui   (p : Pred) (ra rt : Reg) (imm : BitVec 8)
  | andi    (p : Pred) (ra rt : Reg) (imm : BitVec 8)
  | ori     (p : Pred) (ra rt : Reg) (imm : BitVec 8)
  | eori    (p : Pred) (ra rt : Reg) (imm : BitVec 8)
  | addui2  (p : Pred) (ra rt : Reg) (imm : BitVec 8)
  | addui4  (p : Pred) (ra rt : Reg) (imm : BitVec 8)
  | addui8  (p : Pred) (ra rt : Reg) (imm : BitVec 8)
  | addui16 (p : Pred) (ra rt : Reg) (imm : BitVec 8)
  /-- LEA, the alternate mnemonic of ADDUI (R146): the same words -/
  | lea     (p : Pred) (ra rt : Reg) (off : BitVec 8)
  | ldi   (p : Pred) (rt : Reg) (imm : BitVec 8)
  | ldit8 (p : Pred) (rt : Reg) (imm : BitVec 8)
  | ldis  (p : Pred) (spr : SprNum) (imm : BitVec 8)
  | neg   (p : Pred) (ra rt : Reg)
  | mov   (p : Pred) (ra rt : Reg)
  | mfspr (p : Pred) (spr : SprNum) (rt : Reg)
  | mtspr (p : Pred) (ra : Reg) (spr : SprNum)
  | movs  (p : Pred) (spra sprt : SprNum)
  | stsb  (p : Pred) (ra rb : Reg)
  | stsw  (p : Pred) (ra rb : Reg)
  | mux   (p : Pred) (ra rb rc rt : Reg)
  -- memory, displacement (R125, R126)
  | lb  (p : Pred) (ra rt : Reg) (off : BitVec 8)
  | lbu (p : Pred) (ra rt : Reg) (off : BitVec 8)
  | lc  (p : Pred) (ra rt : Reg) (off : BitVec 8)
  | lcu (p : Pred) (ra rt : Reg) (off : BitVec 8)
  | lh  (p : Pred) (ra rt : Reg) (off : BitVec 8)
  | lhu (p : Pred) (ra rt : Reg) (off : BitVec 8)
  | lw  (p : Pred) (ra rt : Reg) (off : BitVec 8)
  | lws (p : Pred) (ra : Reg) (spr : SprNum) (off : BitVec 8)
  | sb  (p : Pred) (ra rs : Reg) (off : BitVec 8)
  | sc  (p : Pred) (ra rs : Reg) (off : BitVec 8)
  | sh  (p : Pred) (ra rs : Reg) (off : BitVec 8)
  | sw  (p : Pred) (ra rs : Reg) (off : BitVec 8)
  | sws (p : Pred) (ra : Reg) (spr : SprNum) (off : BitVec 8)
  | sti (p : Pred) (ra : Reg) (imm off : BitVec 8)
  | cas (p : Pred) (ra rb rc rt : Reg) (off : BitVec 8)
  | lvb (p : Pred) (ra rt : Reg) (off : BitVec 8)
  | lvc (p : Pred) (ra rt : Reg) (off : BitVec 8)
  | lvh (p : Pred) (ra rt : Reg) (off : BitVec 8)
  | lvw (p : Pred) (ra rt : Reg) (off : BitVec 8)
  -- memory, indexed (R126)
  | lbx  (p : Pred) (ra rb rt : Reg)
  | lbux (p : Pred) (ra rb rt : Reg)
  | lcx  (p : Pred) (ra rb rt : Reg)
  | lcux (p : Pred) (ra rb rt : Reg)
  | lhx  (p : Pred) (ra rb rt : Reg)
  | lhux (p : Pred) (ra rb rt : Reg)
  | lwx  (p : Pred) (ra rb rt : Reg)
  | sbx  (p : Pred) (ra rb rs : Reg)
  | scx  (p : Pred) (ra rb rs : Reg)
  | shx  (p : Pred) (ra rb rs : Reg)
  | swx  (p : Pred) (ra rb rs : Reg)
  -- control transfer (R126)
  | jsr  (p : Pred) (brt br : BReg) (off : BitVec 24)
  /-- BSR: JSR with br = 15 (R235) -/
  | bsr  (p : Pred) (brt : BReg) (off : BitVec 24)
  /-- JMP: JSR with brt = 0 (R236) -/
  | jmp  (p : Pred) (br : BReg) (off : BitVec 24)
  | rts  (p : Pred) (im br : BitVec 4)
  | loop (p : Pred) (disp : BitVec 8)
  | sys  (p : Pred) (vec : BitVec 8)
  | int  (p : Pred) (vec : BitVec 8)
  -- bitfield (R197 to R203)
  | bfins  (p : Pred) (ra rt : Reg) (mb me : BitVec 6)
  | bfset  (p : Pred) (ra rt : Reg) (mb me : BitVec 6)
  | bfclr  (p : Pred) (ra rt : Reg) (mb me : BitVec 6)
  | bfchg  (p : Pred) (ra rt : Reg) (mb me : BitVec 6)
  | bfextu (p : Pred) (ra rt : Reg) (mb me : BitVec 6)
  | bfext  (p : Pred) (ra rt : Reg) (mb me : BitVec 6)
  -- TLB commands (R350 to R360); the commands 0 to 6 ignore `tn` and `r`
  | tlbnop   (p : Pred) (tn : BitVec 4) (r : Reg)
  | tlbpb    (p : Pred) (tn : BitVec 4) (r : Reg)
  | tlbrd    (p : Pred) (tn : BitVec 4) (r : Reg)
  | tlbwr    (p : Pred) (tn : BitVec 4) (r : Reg)
  | tlbwi    (p : Pred) (tn : BitVec 4) (r : Reg)
  | tlben    (p : Pred) (tn : BitVec 4) (r : Reg)
  | tlbdis   (p : Pred) (tn : BitVec 4) (r : Reg)
  | tlbrdreg (p : Pred) (tn : BitVec 4) (rt : Reg)
  | tlbwrreg (p : Pred) (tn : BitVec 4) (rb : Reg)
  -- system (R127)
  | rte   (p : Pred)
  | rti   (p : Pred)
  | memsb (p : Pred)
  | memdb (p : Pred)
  | cli   (p : Pred)
  | sei   (p : Pred)
  -- BCD (R204 to R207)
  | bcdadd (p : Pred) (ra rb rt : Reg)
  | bcdsub (p : Pred) (ra rb rt : Reg)
  | bcdmul (p : Pred) (ra rb rt : Reg)
  deriving DecidableEq, Repr

/-- Why the decoder rejects a byte sequence: the reserved encodings of R143, by name. -/
inductive Reserved where
  /-- byte 0 is 90h, A0h, .. F0h (U3) -/
  | predicateByte
  /-- an ordinary instruction whose condition is 12, 14 or 15 (R112, U2) -/
  | condition
  /-- SYS or INT whose byte 2 is not CDh or CEh (R128, U6) -/
  | sysForm
  /-- a prefix before an instruction that does not accept one (R119, U7) -/
  | misplacedPrefix
  deriving DecidableEq, Repr

/-- The predicate of the extended instruction behind a prefix (R116). -/
def Ext.pred : Ext → Pred
  | .alu _ p _ _ _ | .cmpi p _ _ _ | .ldi p _ _ | .ldis p _ _ | .load _ p _ _ _ | .lws p _ _ _
  | .store _ p _ _ _ | .sws p _ _ _ | .cas p _ _ _ _ _ | .jsr p _ _ _ => p

/-- The predicate of an instruction; the one-byte instructions have none (R111, R239, R242). -/
def Instr.pred? : Instr → Option Pred
  | .brk | .nop | .rtsShort => none
  | .imm16 _ e | .imm24 _ e | .imm32 _ e | .imm40 _ e | .imm48 _ e | .imm56 _ e | .imm64 _ e => some e.pred
  | .tst p _ _ | .cmp p _ _ _ | .cmpi p _ _ _ | .br p _
  | .add p _ _ _ | .sub p _ _ _ | .addu p _ _ _ | .subu p _ _ _ | .and p _ _ _ | .or p _ _ _ | .eor p _ _ _
  | .addu2 p _ _ _ | .addu4 p _ _ _ | .addu8 p _ _ _ | .addu16 p _ _ _
  | .addi p _ _ _ | .subi p _ _ _ | .addui p _ _ _ | .subui p _ _ _ | .andi p _ _ _ | .ori p _ _ _ | .eori p _ _ _
  | .addui2 p _ _ _ | .addui4 p _ _ _ | .addui8 p _ _ _ | .addui16 p _ _ _ | .lea p _ _ _
  | .ldi p _ _ | .ldit8 p _ _ | .ldis p _ _ | .neg p _ _ | .mov p _ _ | .mfspr p _ _ | .mtspr p _ _ | .movs p _ _
  | .stsb p _ _ | .stsw p _ _ | .mux p _ _ _ _
  | .lb p _ _ _ | .lbu p _ _ _ | .lc p _ _ _ | .lcu p _ _ _ | .lh p _ _ _ | .lhu p _ _ _ | .lw p _ _ _ | .lws p _ _ _
  | .sb p _ _ _ | .sc p _ _ _ | .sh p _ _ _ | .sw p _ _ _ | .sws p _ _ _ | .sti p _ _ _ | .cas p _ _ _ _ _
  | .lvb p _ _ _ | .lvc p _ _ _ | .lvh p _ _ _ | .lvw p _ _ _
  | .lbx p _ _ _ | .lbux p _ _ _ | .lcx p _ _ _ | .lcux p _ _ _ | .lhx p _ _ _ | .lhux p _ _ _ | .lwx p _ _ _
  | .sbx p _ _ _ | .scx p _ _ _ | .shx p _ _ _ | .swx p _ _ _
  | .jsr p _ _ _ | .bsr p _ _ | .jmp p _ _ | .rts p _ _ | .loop p _ | .sys p _ | .int p _
  | .bfins p _ _ _ _ | .bfset p _ _ _ _ | .bfclr p _ _ _ _ | .bfchg p _ _ _ _ | .bfextu p _ _ _ _ | .bfext p _ _ _ _
  | .tlbnop p _ _ | .tlbpb p _ _ | .tlbrd p _ _ | .tlbwr p _ _ | .tlbwi p _ _ | .tlben p _ _ | .tlbdis p _ _
  | .tlbrdreg p _ _ | .tlbwrreg p _ _
  | .rte p | .rti p | .memsb p | .memdb p | .cli p | .sei p
  | .bcdadd p _ _ _ | .bcdsub p _ _ _ | .bcdmul p _ _ _ => some p

end Sys2Proof
end

