-- ==== Sys2Proof/Machine/Flags.lean ====
section
/-!
DEFINITION. The flags: predicate conditions (10_state.md R34), the flags of the compares (42_compare.md R219 to R222)
and signed overflow (40_arithmetic.md R148).
-/

namespace Sys2Proof.Machine

/-- The eq flag of a predicate register (R30). -/
def flagEq (f : BitVec 4) : Bool := f.getLsbD 0

/-- The signed-less-than flag (R30). -/
def flagLt (f : BitVec 4) : Bool := f.getLsbD 1

/-- The unsigned-less-than flag (R30). -/
def flagLtu (f : BitVec 4) : Bool := f.getLsbD 2

/-- Whether a condition holds of a predicate register's flags and the external signal (R34, R112). -/
def condHolds (c : Cond) (f : BitVec 4) (psig : Bool) : Bool :=
  match c with
  | .pf   => false
  | .pt   => true
  | .peq  => flagEq f
  | .pne  => !flagEq f
  | .ple  => flagLt f || flagEq f
  | .pgt  => !(flagLt f || flagEq f)
  | .pge  => !flagLt f
  | .plt  => flagLt f
  | .pleu => flagLtu f || flagEq f
  | .pgtu => !(flagLtu f || flagEq f)
  | .pgeu => !flagLtu f
  | .pltu => flagLtu f
  | .psig => psig

/-- The four bits a predicate register takes: bit 3 is 0 (R30, R219). -/
def packFlags (ltu lt eq : Bool) : BitVec 4 :=
  0#1 ++ BitVec.ofBool ltu ++ BitVec.ofBool lt ++ BitVec.ofBool eq

/-- The flags of a compare (R220, R221). -/
def compareFlags (a b : Word) : BitVec 4 :=
  packFlags (BitVec.ult a b) (BitVec.slt a b) (a == b)

/-- The flags of a test against zero (R222). -/
def testFlags (a : Word) : BitVec 4 :=
  packFlags false a.msb (a == 0)

/-- What an arithmetic instruction that can trap computes (R148, R149). -/
inductive AluResult where
  | value (v : Word)
  | overflow
  deriving DecidableEq, Repr

/-- Signed overflow of a sum (R148). -/
def addOverflows (a b : Word) : Bool := a.msb == b.msb && (a + b).msb != a.msb

/-- Signed overflow of a difference (R148). -/
def subOverflows (a b : Word) : Bool := a.msb != b.msb && (a - b).msb != a.msb

/-- The sum of ADD and ADDI (R150, R151). -/
def addTrapping (a b : Word) : AluResult := if addOverflows a b then .overflow else .value (a + b)

/-- The difference of SUB and SUBI (R152, R153). -/
def subTrapping (a b : Word) : AluResult := if subOverflows a b then .overflow else .value (a - b)

end Sys2Proof.Machine
end

