-- ==== Sys2Proof/Config.lean ====
section
/-!
DEFINITION. What an implementation or its platform fixes (the type `Config`), and the free values: opaque
constants that nothing can evaluate. The model takes each free value at the step counter `now`.
-/

namespace Sys2Proof

/-- What a range of physical addresses is on the platform (20_memory.md R92, R94, R100; decision D30). -/
inductive RegionKind where
  /-- ordinary memory -/
  | memory
  /-- a device: what it answers is outside the model (log entry 9) -/
  | device
  /-- nothing answers: the bus cycle ends with `err_i` (R100) -/
  | absent
  deriving DecidableEq, Repr

/-- One row of the platform's memory map: the addresses `first` to `last`, both included. -/
structure Region where
  first : Word
  last  : Word
  kind  : RegionKind
  deriving DecidableEq, Repr

/-- The parameters of the core and of its platform; no instruction changes them (R9, R10, R18, R149, R92). -/
structure Config where
  /-- built with the SEGMENTATION definition (R9) -/
  segmentation   : Bool
  /-- the machine ID read as special register 0 (R10, R42) -/
  mid            : Word
  /-- the features read as special register 1 (R10, R43) -/
  feat           : Word
  /-- the vector of the overflow exception (R149) -/
  overflowVector : BitVec 8
  /-- the platform's regions, the first that holds an address counts; an address in none is memory (log entry 8) -/
  memoryMap      : List Region
  deriving DecidableEq, Repr

/-- MID of this implementation (R10): free. -/
opaque Config.mid0 : Word

/-- FEAT of this implementation (R10): free. -/
opaque Config.feat0 : Word

/-- The overflow vector of this implementation (R149): free. -/
opaque Config.overflowVector0 : BitVec 8

/-- The configuration at reset: segmentation built in (the default of R9), the rest free, and a platform
that is memory everywhere (DESIGN CHOICE, unsafe: log entries 8 and 10). -/
def Config.initial : Config where
  segmentation := true
  mid := Config.mid0
  feat := Config.feat0
  overflowVector := Config.overflowVector0
  memoryMap := []

/-- By how much TICK has moved when a step begins (R44, R402; log entry 5): free. -/
opaque Config.tickAdvance : Nat → Word

/-- The external signal of condition 13 when the schedule of pins is spent (R112; log entry 4): free. -/
opaque Config.externalSignal : Nat → Bool

/-- The raw draw behind TLBRandom (R62; log entry 6): free. -/
opaque Config.randomDraw : Nat → Nat

/-- Which of several matching entries a TLB probe names (R353; log entry 12): free. -/
opaque Config.probeChoice : Nat → Nat

/-- What a BCD instruction writes when a source digit is above 9 (R204, U4; log entry 7): free. -/
opaque Config.bcdInvalid : Nat → Word

/-- The byte a device answers to a load, by step and physical address (R93, R94; log entry 9): free. -/
opaque Config.deviceByte : Nat → Nat → Byte

/-- The byte a device answers to an instruction fetch (R94; log entry 9): free. -/
opaque Config.deviceCode : Nat → Nat → Byte

/-- Which of the old and new bytes an unsynchronised fetch sees (R99; log entry 19): free. -/
opaque Config.staleChoice : Nat → Nat → Nat

/-- The contents of the storage that `rst_i` leaves unspecified, by step and slot (R421; log entry 20): free. -/
opaque Config.afterReset : Nat → Nat → Word

end Sys2Proof
end

