-- ==== Sys2Proof/Machine/State.lean ====
section
/-!
DEFINITION. The state of the machine as plain data (10_state.md section 9, 20_memory.md R70), its value after reset
(70_reset_and_hazards.md R421), and the reasons a step can stop.
-/

namespace Sys2Proof.Machine

/-- One entry of the TLB (10_state.md R52). -/
structure TlbEntry where
  /-- cachability -/
  c    : BitVec 3
  /-- global: the ASID is not compared -/
  g    : Bool
  /-- dirty: set by a data write that hits the entry -/
  d    : Bool
  /-- valid -/
  v    : Bool
  asid : BitVec 8
  /-- virtual page number -/
  vpn  : BitVec 52
  /-- physical page number -/
  ppn  : BitVec 52
  deriving DecidableEq, Repr

/-- The holding register TLBASID, by its fields (10_state.md R55). -/
structure TlbAsid where
  asid : BitVec 8
  c    : BitVec 3
  g    : Bool
  d    : Bool
  v    : Bool
  deriving DecidableEq, Repr

/-- The TLB registers that have storage (10_state.md R54); TLBRandom is a draw (R62). -/
structure TlbRegs where
  /-- Tn 0 (R58) -/
  wired    : BitVec 4
  /-- Tn 1, stored whole, bits 5..0 significant (R59, R351; log entry 22) -/
  index    : Word
  /-- Tn 3 (R60) -/
  pageSize : BitVec 3
  /-- Tn 4 (R56) -/
  virtPage : Word
  /-- Tn 5 (R56) -/
  physPage : Word
  /-- Tn 7 (R55) -/
  asid     : TlbAsid
  /-- Tn 8, data miss address (R61) -/
  dma      : Word
  /-- Tn 9, instruction miss address (R61) -/
  ima      : Word
  /-- Tn 10, page table address: a scratch register (R54) -/
  pta      : Word
  /-- Tn 11, page table control: a scratch register (R54) -/
  ptc      : Word
  deriving DecidableEq, Repr

/-- The inputs of one step: the pins at its boundary (60_exceptions.md R383, R413; 30_encoding.md R112), and which of its
bus cycles end with `err_i` (00_scope.md R17, R18, 20_memory.md R100; log entry 30). -/
structure Pins where
  /-- `rst_i` asserted -/
  rst  : Bool
  /-- `nmi_i` -/
  nmi  : Bool
  /-- `irq_i` -/
  irq  : Bool
  /-- `vec_i` -/
  vec  : BitVec 8
  /-- the external signal of predicate condition 13 -/
  psig : Bool
  /-- `err_i`: the physical addresses of the bytes whose data cycle ends in error -/
  dataErr  : List Word
  /-- `err_i`: the physical addresses of the bytes whose fetch cycle ends in error -/
  fetchErr : List Word
  deriving DecidableEq, Repr

/-- No pin asserted. -/
def Pins.low : Pins :=
  { rst := false, nmi := false, irq := false, vec := 0, psig := false, dataErr := [], fetchErr := [] }

/-- Bytes that stores replaced and that an instruction fetch may still see (20_memory.md R99; log entry 19):
the model's own. Each row is a physical address and the byte that stood there. -/
structure CodeLag where
  /-- replaced since the last MEMSB -/
  overwritten : List Host.Cell
  /-- replaced before the last MEMSB, with no control transfer since -/
  drained     : List Host.Cell
  deriving DecidableEq, Repr

/-- The whole state: 10_state.md section 9, with TICK (R44) and memory (20_memory.md R70), then the parameters and
inputs of the spec and the model's own fields (INVENTORY.md, '## State'). -/
structure State where
  /-- general registers; the cell of register 0 is never read (R20) -/
  x          : Vector Word 256
  /-- branch registers; the cells of 0 and 15 are never read (R25, R26) -/
  br         : Vector Word 16
  /-- the address of the instruction sequence about to run (R27) -/
  pc         : Word
  /-- predicate registers: bit 0 eq, bit 1 lt, bit 2 ltu (R30) -/
  p          : Vector (BitVec 4) 16
  /-- status register: low half in force, high half its backup (R36) -/
  sr         : BitVec 32
  /-- loop counter (R45) -/
  lc         : Word
  /-- address space identifier (R46) -/
  asid       : BitVec 8
  /-- segment registers (R49) -/
  seg        : Vector Word 16
  /-- TLB entries (R52) -/
  tlb        : Vector TlbEntry 64
  /-- TLB translation is on (R53) -/
  tlbEnabled : Bool
  /-- TLB registers (R54) -/
  tlbRegs    : TlbRegs
  /-- tick count (R44) -/
  tick       : Word
  /-- physical memory, in canonical form (log entry 3) -/
  mem        : List Host.Cell
  /-- what a fetch may still see of replaced bytes (log entry 19) -/
  lag        : CodeLag
  /-- the inputs as last sampled (log entries 4 and 30) -/
  pins       : Pins
  /-- the inputs of the coming steps (log entries 4 and 30) -/
  schedule   : List Pins
  /-- how many steps have begun; the free values are taken at it (log entry 21) -/
  now        : Nat
  /-- the parameters (R9, R10, R92, R149) -/
  cfg        : Config
  deriving DecidableEq, Repr

/-- Why the machine stops with a fault. -/
inductive Fault where
  /-- A data access whose address is no multiple of its size: the spec calls it unpredictable (20_memory.md R76, U1).
  Raised by every load, store and CAS of 2, 4 or 8 bytes. Safe: the hardware may go on. -/
  | misaligned
  /-- More than one TLB entry matches an address: unpredictable (R86, U10). Raised by a data access and by an
  instruction fetch. Safe: the hardware may go on. -/
  | tlbMultipleMatch
  deriving DecidableEq, Repr

/-- Why the model gives an instruction no meaning. -/
inductive Refusal where
  /-- An instruction whose arm has no meaning yet. Safe: the step says nothing. -/
  | notModelled (mnemonic : String)
  /-- A reserved encoding met by the fetch (30_encoding.md R143). Safe: the hardware may do anything. -/
  | reserved (r : Reserved)
  /-- An unassigned opcode or sub-code under a false predicate: its length is unknown (R141, U16). Raised by the
  fetch. Safe. -/
  | unassignedSkipped
  /-- More bytes than the longest instruction would be needed; no byte sequence does it. Raised by the fetch. Safe. -/
  | tooLong
  /-- A bitfield instruction with mb > me that executes (41_logic_bitfield_bcd.md R197, U5). Safe. -/
  | bitfieldBounds
  /-- TLBRDREG or TLBWRREG of the register 6 or 12 to 15 that executes (R143, R351, U8). Safe. -/
  | reservedTlbRegister
  /-- TLBWRREG that would put a value above 4 into TLBPageSize (R60, R351, U9). Safe. -/
  | reservedPageSize
  deriving DecidableEq, Repr

/-- What a step or a meaning answers. -/
abbrev Out := Host.Outcome State Fault Refusal

/-- Where the processor starts after reset (10_state.md R64). -/
def resetVector : Word := 0xFFFFFFFFFFFFFFF0

/-- The low half of SR after reset: IM = 1, S = 1, FXE = 0 (10_state.md R68). -/
def resetStatus : BitVec 16 := 0xA000

/-- A TLB entry with every field 0. -/
def TlbEntry.zero : TlbEntry := { c := 0, g := false, d := false, v := false, asid := 0, vpn := 0, ppn := 0 }

/-- The TLB registers with every field 0. -/
def TlbRegs.zero : TlbRegs :=
  { wired := 0, index := 0, pageSize := 0, virtPage := 0, physPage := 0,
    asid := { asid := 0, c := 0, g := false, d := false, v := false },
    dma := 0, ima := 0, pta := 0, ptc := 0 }

/-- The machine right after reset (70_reset_and_hazards.md R421). The spec states pc, IM, S, FXE and `tlb_enabled`;
every other register is unspecified there and 0 here (DESIGN CHOICE, unsafe: log entry 1). Memory lists nothing. -/
def State.reset : State :=
  { x := Vector.replicate 256 0
    br := Vector.replicate 16 0
    pc := resetVector
    p := Vector.replicate 16 0
    sr := 0#16 ++ resetStatus
    lc := 0
    asid := 0
    seg := Vector.replicate 16 0
    tlb := Vector.replicate 64 TlbEntry.zero
    tlbEnabled := false
    tlbRegs := TlbRegs.zero
    tick := 0
    mem := []
    lag := { overwritten := [], drained := [] }
    pins := Pins.low
    schedule := []
    now := 0
    cfg := Config.initial }

end Sys2Proof.Machine
end

