-- ==== Sys2Proof/Machine/Ops.lean ====
section
/-!
DEFINITION. The named operations over registers and memory, and taking and leaving a trap. Every read and write of the
state by a meaning goes through one of them.
-/

namespace Sys2Proof.Machine

/-! ### Program counter -/

/-- Sets the address of the next instruction. -/
def State.setPc (s : State) (a : Word) : State := { s with pc := a }

/-- Sequential advance past an instruction of `len` bytes, modulo 2^64 (10_state.md R28, R29). -/
def State.advance (s : State) (len : Nat) : State := s.setPc (s.pc + BitVec.ofNat 64 len)

/-- A control transfer (43_branch.md R231 to R233). It also ends the wait of bytes already behind a MEMSB
(20_memory.md R99; log entry 19). -/
def State.jump (s : State) (target : Word) : State :=
  { s with pc := target, lag := { s.lag with drained := [] } }

/-! ### General, branch, predicate and segment registers -/

/-- Reads a general register; register 0 reads 0 (10_state.md R20). -/
def State.getX (s : State) (r : Reg) : Word :=
  if r = 0 then 0 else s.x[r.toNat]'r.isLt

/-- Writes a general register; a write to register 0 is discarded (10_state.md R20). -/
def State.setX (s : State) (r : Reg) (v : Word) : State :=
  if r = 0 then s else { s with x := s.x.set r.toNat v r.isLt }

/-- Reads a branch register; 0 reads 0 and 15 reads the pc of the executing instruction (10_state.md R25 to R27). -/
def State.getBr (s : State) (r : BReg) : Word :=
  if r = 0 then 0 else if r = 15 then s.pc else s.br[r.toNat]'r.isLt

/-- Writes a branch register; writes to 0 and 15 are discarded (10_state.md R25, R26). -/
def State.setBr (s : State) (r : BReg) (v : Word) : State :=
  if r = 0 ∨ r = 15 then s else { s with br := s.br.set r.toNat v r.isLt }

/-- Reads a predicate register (10_state.md R30). -/
def State.getP (s : State) (r : PReg) : BitVec 4 := s.p[r.toNat]'r.isLt

/-- Writes a predicate register; all sixteen are writable (42_compare.md R219). -/
def State.setP (s : State) (r : PReg) (f : BitVec 4) : State := { s with p := s.p.set r.toNat f r.isLt }

/-- PREGS: register i in bits 4i+3 .. 4i (10_state.md R33). -/
def State.pregs (s : State) : Word :=
  s.getP 15 ++ s.getP 14 ++ s.getP 13 ++ s.getP 12 ++ s.getP 11 ++ s.getP 10 ++ s.getP 9 ++ s.getP 8 ++
    s.getP 7 ++ s.getP 6 ++ s.getP 5 ++ s.getP 4 ++ s.getP 3 ++ s.getP 2 ++ s.getP 1 ++ s.getP 0

/-- Writes all sixteen predicate registers, all four bits of each (10_state.md R32, R33). -/
def State.setPregs (s : State) (v : Word) : State :=
  { s with p := Vector.ofFn fun i : Fin 16 => v.extractLsb' (4 * i.val) 4 }

/-- Reads a segment register (10_state.md R49). -/
def State.getSeg (s : State) (r : BitVec 4) : Word := s.seg[r.toNat]'r.isLt

/-- Writes a segment register, all 64 bits (10_state.md R49). -/
def State.setSeg (s : State) (r : BitVec 4) (v : Word) : State := { s with seg := s.seg.set r.toNat v r.isLt }

/-- Writes the loop counter (10_state.md R45). -/
def State.setLc (s : State) (v : Word) : State := { s with lc := v }

/-- Writes the address space identifier (10_state.md R46). -/
def State.setAsid (s : State) (v : BitVec 8) : State := { s with asid := v }

/-! ### Predication -/

/-- Whether a predicate holds (30_encoding.md R110, R111). -/
def State.holds (s : State) (p : Pred) : Bool := condHolds p.cond (s.getP p.pn) s.pins.psig

/-- The predication wrapper: a false predicate leaves only the pc's advance (00_scope.md R16). -/
def State.predicated (s : State) (p : Pred) (len : Nat) (o : Out) : Out :=
  if s.holds p then o else .next (s.advance len)

/-- Writes a general register and goes on. -/
def State.result (s : State) (rt : Reg) (len : Nat) (v : Word) : Out :=
  .next ((s.setX rt v).advance len)

/-! ### Status register (10_state.md R36 to R40) -/

/-- The half in force. -/
def State.statusLow (s : State) : BitVec 16 := s.sr.extractLsb' 0 16

/-- The backup half. -/
def State.statusBackup (s : State) : BitVec 16 := s.sr.extractLsb' 16 16

/-- The interrupt mask IM. -/
def State.im (s : State) : Bool := s.sr.getLsbD 15

/-- Kernel mode, the output `km`: the bit S (10_state.md R37, 60_exceptions.md R396). -/
def State.km (s : State) : Bool := s.sr.getLsbD 13

/-- Sets both halves of the status register. -/
def State.setStatus (s : State) (backup low : BitVec 16) : State := { s with sr := backup ++ low }

/-! ### Traps (60_exceptions.md) -/

/-- The two kinds of trap; they differ in the link register (60_exceptions.md R376). -/
inductive TrapKind where
  | exception
  | interrupt
  deriving DecidableEq, Repr

/-- The link register of a kind: EPC or IPC (10_state.md R24). -/
def TrapKind.link : TrapKind → BReg
  | .exception => 13
  | .interrupt => 14

/-- Vector numbers raised by the hardware (60_exceptions.md R371). -/
def vecBreak : BitVec 8 := 0
/-- data TLB miss -/
def vecDtlbMiss : BitVec 8 := 248
/-- instruction TLB miss -/
def vecItlbMiss : BitVec 8 := 249
/-- unimplemented instruction -/
def vecUnimplemented : BitVec 8 := 250
/-- bus error on a load or store -/
def vecBusData : BitVec 8 := 251
/-- bus error on an instruction fetch -/
def vecBusFetch : BitVec 8 := 252
/-- non-maskable interrupt -/
def vecNmi : BitVec 8 := 254

/-- The address of a vector: `br[12] + 16 v` (60_exceptions.md R370). -/
def State.vectorAddress (s : State) (v : BitVec 8) : Word := s.getBr 12 + 16 * v.setWidth 64

/-- Taking a trap: the return address goes to EPC or IPC, the low half of SR to the backup, S and IM become 1, and
the pc is the vector's address. Nothing else changes (60_exceptions.md R376). -/
def State.enter (s : State) (k : TrapKind) (v : BitVec 8) (ret : Word) : State :=
  (((s.setBr k.link ret).setStatus s.statusLow (s.statusLow ||| 0xA000#16))).setPc (s.vectorAddress v)

/-- Returning from a trap: the pc is the link register, the low half of SR the backup, and a return from an
interrupt clears IM after that (60_exceptions.md R382, 45_system.md R332, R333). -/
def State.leave (s : State) (k : TrapKind) : State :=
  let low := match k with
    | .exception => s.statusBackup
    | .interrupt => s.statusBackup &&& 0x7FFF#16
  (s.setStatus s.statusBackup low).jump (s.getBr k.link)

/-- Ends an arithmetic instruction: the result, or the overflow exception with the target unwritten
(40_arithmetic.md R149). -/
def State.aluResult (s : State) (rt : Reg) (len : Nat) (r : AluResult) : Out :=
  match r with
  | .value v => s.result rt len v
  | .overflow => .next (s.enter .exception s.cfg.overflowVector s.pc)

/-! ### Physical memory: rows of address and byte, addresses strictly rising, none equal to what an unlisted
address reads as -/

/-- What an address that no row lists reads as (DESIGN CHOICE, unsafe: log entry 3). -/
def Memory.unlisted : Byte := 0

/-- The byte at an address. -/
def Memory.read (m : List Host.Cell) (a : Nat) : Byte :=
  match m with
  | [] => Memory.unlisted
  | c :: r => if c.1 = a then c.2 else Memory.read r a

/-- Writes a byte, keeping the canonical form. -/
def Memory.write (m : List Host.Cell) (a : Nat) (b : Byte) : List Host.Cell :=
  match m with
  | [] => if b = Memory.unlisted then [] else [(a, b)]
  | c :: r =>
    if a < c.1 then (if b = Memory.unlisted then c :: r else (a, b) :: c :: r)
    else if a = c.1 then (if b = Memory.unlisted then r else (a, b) :: r)
    else c :: Memory.write r a b

/-- The canonical form above an address: rows strictly rising, inside the 64-bit space, none redundant. -/
def Memory.wfFrom (lo : Nat) : List Host.Cell → Bool
  | [] => true
  | c :: r => decide (lo ≤ c.1) && decide (c.1 < 2 ^ 64) && c.2 != Memory.unlisted && Memory.wfFrom (c.1 + 1) r

/-- The canonical form of memory. -/
def Memory.wf (m : List Host.Cell) : Bool := Memory.wfFrom 0 m

/-! ### The bus (20_memory.md R73, R100, R101) -/

/-- Whether a region holds a physical address. -/
def regionHolds (r : Region) (pa : Word) : Bool := decide (r.first ≤ pa) && decide (pa ≤ r.last)

/-- What a memory map says of a physical address: its first region that holds it; memory if none does (R92). -/
def kindIn (map : List Region) (pa : Word) : RegionKind :=
  match map with
  | [] => .memory
  | r :: rest => if regionHolds r pa then r.kind else kindIn rest pa

/-- What the platform has at a physical address (R92). -/
def State.kindAt (s : State) (pa : Word) : RegionKind := kindIn s.cfg.memoryMap pa

/-- The byte a load finds at a physical address; a device's answer is free (R93, R94; log entry 9). -/
def State.busByte (s : State) (pa : Word) : Byte :=
  match s.kindAt pa with
  | .device => Config.deviceByte s.now pa.toNat
  | .memory | .absent => Memory.read s.mem pa.toNat

/-- Whether a data cycle at a physical address ends with `err_i` in this step: always where nothing answers, else as the
input `err_i` of the step says (00_scope.md R18, R100; log entry 30). -/
def State.dataFails (s : State) (pa : Word) : Bool := s.kindAt pa == .absent || decide (pa ∈ s.pins.dataErr)

/-- Whether a fetch cycle at a physical address ends with `err_i` in this step (R18, R100; log entry 30). -/
def State.codeFails (s : State) (pa : Word) : Bool := s.kindAt pa == .absent || decide (pa ∈ s.pins.fetchErr)

/-- Whether a data transfer of `n` bytes ends with `err_i`: the cycle of some byte of it does (R100, 60_exceptions.md
R413; which ones is an input of the step, in the model's own form: DESIGN CHOICE, log entry 30). -/
def State.busError (s : State) (pa : Word) : Nat → Bool
  | 0 => false
  | n + 1 => s.busError pa n || s.dataFails (pa + BitVec.ofNat 64 n)

/-- Reads `n` bytes, the lowest address least significant (R73). -/
def State.busRead (s : State) (pa : Word) : Nat → Word
  | 0 => 0
  | n + 1 => s.busRead pa n ||| (s.busByte (pa + BitVec.ofNat 64 n)).setWidth 64 <<< (8 * n)

/-- Stores one byte. Memory takes it, and the byte it replaces may still be fetched for a while (R99; log entry 19);
a device takes it out of sight (log entry 9). -/
def State.storeByte (s : State) (pa : Word) (b : Byte) : State :=
  match s.kindAt pa with
  | .memory =>
    { s with
      mem := Memory.write s.mem pa.toNat b
      lag := { s.lag with overwritten := (pa.toNat, Memory.read s.mem pa.toNat) :: s.lag.overwritten } }
  | .device | .absent => s

/-- Stores the low `n` bytes of a word, the least significant at the lowest address (R73). -/
def State.busWrite (s : State) (pa : Word) (v : Word) : Nat → State
  | 0 => s
  | n + 1 => (s.busWrite pa v n).storeByte (pa + BitVec.ofNat 64 n) (v.extractLsb' (8 * n) 8)

/-- MEMSB: what was replaced so far waits only for a control transfer (R99; log entry 19). -/
def State.drain (s : State) : State :=
  { s with lag := { overwritten := [], drained := s.lag.overwritten ++ s.lag.drained } }

/-! ### Segmentation (20_memory.md R78 to R81) -/

/-- Segment addition: bits 59..12 of the address plus bits 63..12 of the register, modulo 2^52; bits 11..0 pass (R80). -/
def addSegment (seg a : Word) : Word :=
  ((a.extractLsb' 12 48).setWidth 52 + seg.extractLsb' 12 52) ++ a.extractLsb' 0 12

/-- The segmented address of a data address: the top nibble names the segment register (R79, R81). -/
def State.dataAddress (s : State) (a : Word) : Word :=
  if s.cfg.segmentation then addSegment (s.getSeg (a.extractLsb' 60 4)) a else a

/-- The segmented address of a code address: segment 15, but none in the area of top nibble F (R79). -/
def State.codeAddress (s : State) (a : Word) : Word :=
  if a.extractLsb' 60 4 = 15#4 then a
  else if s.cfg.segmentation then addSegment (s.getSeg 15) a
  else a

/-! ### Translation (20_memory.md R84 to R90) -/

/-- How many low page-number bits a page size leaves out: 2N (R85). -/
def pageBits (n : BitVec 3) : Nat := 2 * n.toNat

/-- The mask of the page-number bits that are page offset at a page size (R85). -/
def pageMask (n : BitVec 3) : BitVec 52 := BitVec.ofNat 52 (2 ^ pageBits n - 1)

/-- Whether two page numbers name one page at a page size (R86). -/
def samePage (n : BitVec 3) (v w : BitVec 52) : Bool := v >>> pageBits n == w >>> pageBits n

/-- Whether an entry matches a page number under an address space (R86). -/
def TlbEntry.hits (e : TlbEntry) (n : BitVec 3) (asid : BitVec 8) (vpn : BitVec 52) : Bool :=
  e.v && (e.g || e.asid == asid) && samePage n e.vpn vpn

/-- The numbers of the matching entries; all 64 are examined (R86). -/
def State.tlbHits (s : State) (asid : BitVec 8) (vpn : BitVec 52) : List (Fin 64) :=
  (List.finRange 64).filter fun i => (s.tlb[i.val]'i.isLt).hits s.tlbRegs.pageSize asid vpn

/-- The physical address an entry gives: its page number above the page offset of the address (R87). -/
def TlbEntry.physical (e : TlbEntry) (n : BitVec 3) (sa : Word) : Word :=
  ((e.ppn &&& ~~~ pageMask n) ||| (sa.extractLsb' 12 52 &&& pageMask n)) ++ sa.extractLsb' 0 12

/-- The page number of an address: bits 63..12 (R56). -/
def pageOf (sa : Word) : BitVec 52 := sa.extractLsb' 12 52

/-- Writes a TLB entry. -/
def State.setTlb (s : State) (i : Fin 64) (e : TlbEntry) : State := { s with tlb := s.tlb.set i.val e i.isLt }

/-- A data write hit the entry: D becomes 1 (R87). -/
def State.markDirty (s : State) (i : Fin 64) : State :=
  s.setTlb i { s.tlb[i.val]'i.isLt with d := true }

/-- Sets the TLB registers. -/
def State.setTlbRegs (s : State) (r : TlbRegs) : State := { s with tlbRegs := r }

/-- Turns translation on or off (10_state.md R53). -/
def State.setTlbEnabled (s : State) (b : Bool) : State := { s with tlbEnabled := b }

/-- Records a data miss, only in a register that holds 0 (10_state.md R61, 20_memory.md R88). -/
def State.recordDataMiss (s : State) (sa : Word) : State :=
  if s.tlbRegs.dma = 0 then s.setTlbRegs { s.tlbRegs with dma := sa } else s

/-- Records an instruction miss, only in a register that holds 0 (10_state.md R61, 20_memory.md R88). -/
def State.recordCodeMiss (s : State) (sa : Word) : State :=
  if s.tlbRegs.ima = 0 then s.setTlbRegs { s.tlbRegs with ima := sa } else s

/-- What looking an address up answers. -/
inductive Lookup where
  /-- the physical address, and the entry that gave it, if translation is on -/
  | hit (pa : Word) (entry : Option (Fin 64))
  | miss
  | multiple
  deriving DecidableEq, Repr

/-- Looks a segmented address up; with translation off it is the physical address (R84, R86 to R88). -/
def State.lookup (s : State) (sa : Word) : Lookup :=
  if s.tlbEnabled then
    match s.tlbHits s.asid (pageOf sa) with
    | [] => .miss
    | [i] => .hit ((s.tlb[i.val]'i.isLt).physical s.tlbRegs.pageSize sa) (some i)
    | _ :: _ :: _ => .multiple
  else .hit sa none

/-! ### Data accesses (20_memory.md R101) -/

/-- What a data access answers: a value and the state after it, an exception with the state to take it in, or a
fault of the model. -/
inductive Access (α : Type) where
  | ok (v : α) (s : State)
  | trap (vector : BitVec 8) (s : State)
  | fault (r : Fault)

/-- The physical address of an aligned data access of `n` bytes; a write marks the entry it hits dirty (R87, R101).
The order is alignment, segmentation, translation, bus error (R101, 60_exceptions.md R390). -/
def State.access (s : State) (write : Bool) (a : Word) (n : Nat) : Access Word :=
  if a.toNat % n ≠ 0 then .fault .misaligned
  else
    match s.lookup (s.dataAddress a) with
    | .miss => .trap vecDtlbMiss (s.recordDataMiss (s.dataAddress a))
    | .multiple => .fault .tlbMultipleMatch
    | .hit pa entry =>
      let t := match write, entry with
        | true, some i => s.markDirty i
        | _, _ => s
      if s.busError pa n then .trap vecBusData t else .ok pa t

/-- MemRead (R101): `n` bytes at a virtual data address, zero-extended. -/
def State.memRead (s : State) (a : Word) (n : Nat) : Access Word :=
  match s.access false a n with
  | .ok pa t => .ok (t.busRead pa n) t
  | .trap v t => .trap v t
  | .fault r => .fault r

/-- MemWrite (R101): the low `n` bytes of a word. -/
def State.memWrite (s : State) (a : Word) (n : Nat) (v : Word) : Access Unit :=
  match s.access true a n with
  | .ok pa t => .ok () (t.busWrite pa v n)
  | .trap w t => .trap w t
  | .fault r => .fault r

/-- The read and conditional write of CAS: one translation, as a write (44_load_store.md R306). -/
def State.memSwap (s : State) (a expected new : Word) : Access Word :=
  match s.access true a 8 with
  | .ok pa t =>
    if t.busRead pa 8 = expected then .ok (t.busRead pa 8) (t.busWrite pa new 8) else .ok (t.busRead pa 8) t
  | .trap v t => .trap v t
  | .fault r => .fault r

/-- Goes on after an access, or takes its exception with the pc of the instruction as the return address
(44_load_store.md R277, 60_exceptions.md R377). -/
def State.afterAccess {α : Type} (s : State) (r : Access α) (k : α → State → Out) : Out :=
  match r with
  | .ok v t => k v t
  | .trap v t => .next (t.enter .exception v s.pc)
  | .fault f => .fault f

/-! ### Special purpose registers (45_system.md R340, R341) -/

/-- SprRead (R340). -/
def State.sprRead (s : State) (n : SprNum) : Word :=
  if n = 0 then s.cfg.mid
  else if n = 1 then s.cfg.feat
  else if n = 2 then s.tick
  else if n = 3 then s.lc
  else if n = 4 then s.pregs
  else if n = 6 then s.asid.setWidth 64
  else if n.extractLsb' 4 4 = 1#4 then s.getBr (n.extractLsb' 0 4)
  else if n.extractLsb' 4 4 = 2#4 then s.getSeg (n.extractLsb' 0 4)
  else 0

/-- SprWrite (R341): the read-only and unassigned numbers discard the write. -/
def State.sprWrite (s : State) (n : SprNum) (v : Word) : State :=
  if n = 3 then s.setLc v
  else if n = 4 then s.setPregs v
  else if n = 6 then s.setAsid (v.setWidth 8)
  else if n.extractLsb' 4 4 = 1#4 then s.setBr (n.extractLsb' 0 4) v
  else if n.extractLsb' 4 4 = 2#4 then s.setSeg (n.extractLsb' 0 4) v
  else s

/-! ### TLB registers (45_system.md R351) -/

/-- A draw of TLBRandom: at least Wired while Wired is below 8 (10_state.md R62; log entry 6). -/
def State.randomWay (s : State) : BitVec 3 :=
  if s.tlbRegs.wired.toNat < 8 then
    BitVec.ofNat 3 (s.tlbRegs.wired.toNat + Config.randomDraw s.now % (8 - s.tlbRegs.wired.toNat))
  else BitVec.ofNat 3 (Config.randomDraw s.now)

/-- TLBASID as a word: the unlisted bits read 0 (10_state.md R55). -/
def TlbAsid.toWord (t : TlbAsid) : Word :=
  0#48 ++ t.asid ++ 0#1 ++ t.c ++ 0#1 ++ BitVec.ofBool t.g ++ BitVec.ofBool t.d ++ BitVec.ofBool t.v

/-- TLBASID from a word: the unlisted bits are ignored (10_state.md R55, R351). -/
def TlbAsid.ofWord (v : Word) : TlbAsid :=
  { asid := v.extractLsb' 8 8, c := v.extractLsb' 4 3, g := v.getLsbD 2, d := v.getLsbD 1, v := v.getLsbD 0 }

/-- TlbRegRead (R351); none for the reserved numbers 6 and 12 to 15. -/
def State.tlbRegRead (s : State) (tn : BitVec 4) : Option Word :=
  match tn with
  | 0#4 => some (s.tlbRegs.wired.setWidth 64)
  | 1#4 => some s.tlbRegs.index
  | 2#4 => some (s.randomWay.setWidth 64)
  | 3#4 => some (s.tlbRegs.pageSize.setWidth 64)
  | 4#4 => some s.tlbRegs.virtPage
  | 5#4 => some s.tlbRegs.physPage
  | 7#4 => some s.tlbRegs.asid.toWord
  | 8#4 => some s.tlbRegs.dma
  | 9#4 => some s.tlbRegs.ima
  | 10#4 => some s.tlbRegs.pta
  | 11#4 => some s.tlbRegs.ptc
  | _ => none

/-- TlbRegWrite (R351). The reserved numbers and a page size above 4 are refused by name (R143, U8, U9). -/
def State.tlbRegWrite (s : State) (tn : BitVec 4) (v : Word) : Except Refusal State :=
  match tn with
  | 0#4 => .ok (s.setTlbRegs { s.tlbRegs with wired := v.setWidth 4 })
  | 1#4 => .ok (s.setTlbRegs { s.tlbRegs with index := v })
  | 2#4 => .ok s
  | 3#4 =>
    if (v.setWidth 3).toNat ≤ 4 then .ok (s.setTlbRegs { s.tlbRegs with pageSize := v.setWidth 3 })
    else .error .reservedPageSize
  | 4#4 => .ok (s.setTlbRegs { s.tlbRegs with virtPage := v })
  | 5#4 => .ok (s.setTlbRegs { s.tlbRegs with physPage := v })
  | 7#4 => .ok (s.setTlbRegs { s.tlbRegs with asid := TlbAsid.ofWord v })
  | 8#4 => .ok (s.setTlbRegs { s.tlbRegs with dma := v })
  | 9#4 => .ok (s.setTlbRegs { s.tlbRegs with ima := v })
  | 10#4 => .ok (s.setTlbRegs { s.tlbRegs with pta := v })
  | 11#4 => .ok (s.setTlbRegs { s.tlbRegs with ptc := v })
  | _ => .error .reservedTlbRegister

end Sys2Proof.Machine
end

