-- ==== Sys2Proof/Machine/Operands.lean ====
section
/-!
DEFINITION. The operand forms: immediates (30_encoding.md R117 to R122), branch offsets and effective addresses
(44_load_store.md R260).
-/

namespace Sys2Proof.Machine

/-- The 8-bit immediates and offsets: sign-extended (R117, R120). -/
def imm8 (b : BitVec 8) : Word := b.signExtend 64

/-- The immediate under a prefix: the prefix's bytes over the low byte of the instruction's own field, sign-extended
from the top bit (R118, R122). -/
def immPrefixed {n : Nat} (k : BitVec n) (b : BitVec 8) : Word := (k ++ b).signExtend 64

/-- The data of STI and the vectors of SYS and INT are zero-extended (R117). -/
def immZero (b : BitVec 8) : Word := b.setWidth 64

/-- The displacement of BR: 12 bits, signed (R121). -/
def brDisp (d : BitVec 12) : Word := d.signExtend 64

/-- The constant of RTS: 4 bits, zero-extended (R117, 43_branch.md R238). -/
def rtsImm (d : BitVec 4) : Word := d.setWidth 64

/-- The offset of an unprefixed JSR: signed when the base is the pc, else zero-extended (R117; conflict C1). -/
def jsrOffset (br : BReg) (off : BitVec 24) : Word :=
  if br = 15#4 then off.signExtend 64 else off.setWidth 64

/-- The effective address of a displacement form (R260). -/
def State.eaDisp (s : State) (ra : Reg) (off : Word) : Word := s.getX ra + off

/-- The effective address of an indexed form (R260). -/
def State.eaIndex (s : State) (ra rb : Reg) : Word := s.getX ra + s.getX rb

/-- The low byte of the immediate field of an instruction behind a prefix (R118, R122). -/
def extField : Ext → BitVec 8
  | .alu _ _ _ _ imm | .cmpi _ _ _ imm | .ldi _ _ imm | .ldis _ _ imm => imm
  | .load _ _ _ _ off | .lws _ _ _ off | .store _ _ _ _ off | .sws _ _ _ off | .cas _ _ _ _ _ off => off
  | .jsr _ _ _ off => off.extractLsb' 0 8

end Sys2Proof.Machine
end

