-- ==== Sys2Proof/Machine/Arith.lean ====
section
/-!
DEFINITION. Integer arithmetic, scaled add, move and load-immediate instructions (40_arithmetic.md R148 to R169).
-/

namespace Sys2Proof.Machine

/-- What a register-immediate instruction computes from register and immediate (R151 to R165, 41_logic_bitfield_bcd.md
R191 to R195). -/
def immOp (op : ImmOp) (a imm : Word) : AluResult :=
  match op with
  | .addi    => addTrapping a imm
  | .subi    => subTrapping a imm
  | .addui   => .value (a + imm)
  | .subui   => .value (a - imm)
  | .andi    => .value (a &&& imm)
  | .ori     => .value (a ||| imm)
  | .eori    => .value (a ^^^ imm)
  | .addui2  => .value (a * 2 + imm)
  | .addui4  => .value (a * 4 + imm)
  | .addui8  => .value (a * 8 + imm)
  | .addui16 => .value (a * 16 + imm)

/-- A register-immediate instruction of `len` bytes. -/
def State.immAlu (s : State) (op : ImmOp) (p : Pred) (ra rt : Reg) (imm : Word) (len : Nat) : Out :=
  s.predicated p len (s.aluResult rt len (immOp op (s.getX ra) imm))

/-- A register-register instruction whose result `f` gives, 5 bytes. -/
def State.regAlu (s : State) (p : Pred) (ra rb rt : Reg) (f : Word → Word → AluResult) : Out :=
  s.predicated p 5 (s.aluResult rt 5 (f (s.getX ra) (s.getX rb)))

/-- A register-to-register instruction of 4 bytes (NEG, MOV). -/
def State.unary (s : State) (p : Pred) (ra rt : Reg) (f : Word → Word) : Out :=
  s.predicated p 4 (s.result rt 4 (f (s.getX ra)))

/-- LDI (R168). -/
def State.loadImm (s : State) (p : Pred) (rt : Reg) (imm : Word) (len : Nat) : Out :=
  s.predicated p len (s.result rt len imm)

/-- ADD (R150). -/
def execAdd (p : Pred) (ra rb rt : Reg) (s : State) : Out := s.regAlu p ra rb rt addTrapping
/-- SUB (R152). -/
def execSub (p : Pred) (ra rb rt : Reg) (s : State) : Out := s.regAlu p ra rb rt subTrapping
/-- ADDU (R154). -/
def execAddu (p : Pred) (ra rb rt : Reg) (s : State) : Out := s.regAlu p ra rb rt fun a b => .value (a + b)
/-- SUBU (R156). -/
def execSubu (p : Pred) (ra rb rt : Reg) (s : State) : Out := s.regAlu p ra rb rt fun a b => .value (a - b)
/-- 2ADDU (R158). -/
def execAddu2 (p : Pred) (ra rb rt : Reg) (s : State) : Out := s.regAlu p ra rb rt fun a b => .value (a * 2 + b)
/-- 4ADDU (R160). -/
def execAddu4 (p : Pred) (ra rb rt : Reg) (s : State) : Out := s.regAlu p ra rb rt fun a b => .value (a * 4 + b)
/-- 8ADDU (R162). -/
def execAddu8 (p : Pred) (ra rb rt : Reg) (s : State) : Out := s.regAlu p ra rb rt fun a b => .value (a * 8 + b)
/-- 16ADDU (R164). -/
def execAddu16 (p : Pred) (ra rb rt : Reg) (s : State) : Out := s.regAlu p ra rb rt fun a b => .value (a * 16 + b)
/-- ADDI (R151). -/
def execAddi (p : Pred) (ra rt : Reg) (imm : BitVec 8) (s : State) : Out := s.immAlu .addi p ra rt (imm8 imm) 5
/-- SUBI (R153). -/
def execSubi (p : Pred) (ra rt : Reg) (imm : BitVec 8) (s : State) : Out := s.immAlu .subi p ra rt (imm8 imm) 5
/-- ADDUI (R155). -/
def execAddui (p : Pred) (ra rt : Reg) (imm : BitVec 8) (s : State) : Out := s.immAlu .addui p ra rt (imm8 imm) 5
/-- SUBUI (R157). -/
def execSubui (p : Pred) (ra rt : Reg) (imm : BitVec 8) (s : State) : Out := s.immAlu .subui p ra rt (imm8 imm) 5
/-- 2ADDUI (R159). -/
def execAddui2 (p : Pred) (ra rt : Reg) (imm : BitVec 8) (s : State) : Out := s.immAlu .addui2 p ra rt (imm8 imm) 5
/-- 4ADDUI (R161). -/
def execAddui4 (p : Pred) (ra rt : Reg) (imm : BitVec 8) (s : State) : Out := s.immAlu .addui4 p ra rt (imm8 imm) 5
/-- 8ADDUI (R163). -/
def execAddui8 (p : Pred) (ra rt : Reg) (imm : BitVec 8) (s : State) : Out := s.immAlu .addui8 p ra rt (imm8 imm) 5
/-- 16ADDUI (R165). -/
def execAddui16 (p : Pred) (ra rt : Reg) (imm : BitVec 8) (s : State) : Out := s.immAlu .addui16 p ra rt (imm8 imm) 5
/-- LEA, the alternate mnemonic of ADDUI: the virtual address, no memory access (R155). -/
def execLea (p : Pred) (ra rt : Reg) (off : BitVec 8) (s : State) : Out := s.immAlu .addui p ra rt (imm8 off) 5
/-- LDI (R168). -/
def execLdi (p : Pred) (rt : Reg) (imm : BitVec 8) (s : State) : Out := s.loadImm p rt (imm8 imm) 4
/-- LDIT8: the top byte of the target is the immediate, the rest is kept (R169). -/
def execLdit8 (p : Pred) (rt : Reg) (imm : BitVec 8) (s : State) : Out :=
  s.predicated p 4 (s.result rt 4 (imm ++ (s.getX rt).extractLsb' 0 56))
/-- NEG (R166). -/
def execNeg (p : Pred) (ra rt : Reg) (s : State) : Out := s.unary p ra rt fun a => 0 - a
/-- MOV (R167). -/
def execMov (p : Pred) (ra rt : Reg) (s : State) : Out := s.unary p ra rt fun a => a

end Sys2Proof.Machine
end

