-- ==== Sys2Proof/Machine/Logic.lean ====
section
/-!
DEFINITION. Logic, multiplex, bitfield and BCD instructions (41_logic_bitfield_bcd.md R190 to R208).
-/

namespace Sys2Proof.Machine

/-- AND (R190). -/
def execAnd (p : Pred) (ra rb rt : Reg) (s : State) : Out := s.regAlu p ra rb rt fun a b => .value (a &&& b)
/-- OR (R192). -/
def execOr (p : Pred) (ra rb rt : Reg) (s : State) : Out := s.regAlu p ra rb rt fun a b => .value (a ||| b)
/-- EOR (R194). -/
def execEor (p : Pred) (ra rb rt : Reg) (s : State) : Out := s.regAlu p ra rb rt fun a b => .value (a ^^^ b)
/-- ANDI (R191). -/
def execAndi (p : Pred) (ra rt : Reg) (imm : BitVec 8) (s : State) : Out := s.immAlu .andi p ra rt (imm8 imm) 5
/-- ORI (R193). -/
def execOri (p : Pred) (ra rt : Reg) (imm : BitVec 8) (s : State) : Out := s.immAlu .ori p ra rt (imm8 imm) 5
/-- EORI (R195). -/
def execEori (p : Pred) (ra rt : Reg) (imm : BitVec 8) (s : State) : Out := s.immAlu .eori p ra rt (imm8 imm) 5

/-- What MUX computes: bits of `b` where the mask is 1, of `c` where it is 0 (R196). -/
def muxBits (mask b c : Word) : Word := (mask &&& b) ||| (~~~mask &&& c)

/-- MUX (R196). -/
def execMux (p : Pred) (ra rb rc rt : Reg) (s : State) : Out :=
  s.predicated p 6 (s.result rt 6 (muxBits (s.getX ra) (s.getX rb) (s.getX rc)))

/-! ### Bitfields -/

/-- The width of the field `me .. mb`, both ends included (R197). -/
def fieldWidth (mb me : BitVec 6) : Nat := me.toNat - mb.toNat + 1

/-- The mask of the field `me .. mb` (R197). -/
def fieldMask (mb me : BitVec 6) : Word := BitVec.ofNat 64 (2 ^ fieldWidth mb me - 1) <<< mb.toNat

/-- A bitfield instruction: `mb > me` is unpredictable and refused when the instruction executes (R197, U5). -/
def State.bitfield (s : State) (p : Pred) (rt : Reg) (mb me : BitVec 6) (v : Word) : Out :=
  s.predicated p 6 (if me.toNat < mb.toNat then .refused .bitfieldBounds else s.result rt 6 v)

/-- BFINS: the target is also a source (R198). -/
def execBfins (p : Pred) (ra rt : Reg) (mb me : BitVec 6) (s : State) : Out :=
  s.bitfield p rt mb me
    ((s.getX rt &&& ~~~fieldMask mb me) ||| ((s.getX ra <<< mb.toNat) &&& fieldMask mb me))
/-- BFSET (R199). -/
def execBfset (p : Pred) (ra rt : Reg) (mb me : BitVec 6) (s : State) : Out :=
  s.bitfield p rt mb me (s.getX ra ||| fieldMask mb me)
/-- BFCLR (R200). -/
def execBfclr (p : Pred) (ra rt : Reg) (mb me : BitVec 6) (s : State) : Out :=
  s.bitfield p rt mb me (s.getX ra &&& ~~~fieldMask mb me)
/-- BFCHG (R201). -/
def execBfchg (p : Pred) (ra rt : Reg) (mb me : BitVec 6) (s : State) : Out :=
  s.bitfield p rt mb me (s.getX ra ^^^ fieldMask mb me)
/-- BFEXTU (R202). -/
def execBfextu (p : Pred) (ra rt : Reg) (mb me : BitVec 6) (s : State) : Out :=
  s.bitfield p rt mb me (((s.getX ra).extractLsb' mb.toNat (fieldWidth mb me)).setWidth 64)
/-- BFEXT (R203). -/
def execBfext (p : Pred) (ra rt : Reg) (mb me : BitVec 6) (s : State) : Out :=
  s.bitfield p rt mb me (((s.getX ra).extractLsb' mb.toNat (fieldWidth mb me)).signExtend 64)

/-! ### BCD. The digit packing is R208's, which the spec takes from general knowledge. -/

/-- Whether both nibbles of the low byte are decimal digits (R204). -/
def bcdValid (v : Word) : Bool :=
  decide ((v.extractLsb' 0 4).toNat ≤ 9) && decide ((v.extractLsb' 4 4).toNat ≤ 9)

/-- The value of the two digits of the low byte (R208). -/
def bcd2 (v : Word) : Nat := 10 * (v.extractLsb' 4 4).toNat + (v.extractLsb' 0 4).toNat

/-- Two digits packed into a byte, zero-extended (R208). -/
def toBcd2 (n : Nat) : Word := BitVec.ofNat 64 (16 * (n / 10) + n % 10)

/-- Four digits packed, thousands first, zero-extended (R208). -/
def toBcd4 (n : Nat) : Word :=
  BitVec.ofNat 64 (4096 * (n / 1000) + 256 * (n / 100 % 10) + 16 * (n / 10 % 10) + n % 10)

/-- A BCD instruction: a digit above 9 leaves a free value in the target (R204, U4; log entry 7). -/
def State.bcd (s : State) (p : Pred) (ra rb rt : Reg) (f : Nat → Nat → Word) : Out :=
  s.predicated p 6 (s.result rt 6
    (if bcdValid (s.getX ra) && bcdValid (s.getX rb) then f (bcd2 (s.getX ra)) (bcd2 (s.getX rb))
     else Config.bcdInvalid s.now))

/-- BCDADD: the carry is discarded (R205). -/
def execBcdadd (p : Pred) (ra rb rt : Reg) (s : State) : Out :=
  s.bcd p ra rb rt fun a b => toBcd2 ((a + b) % 100)
/-- BCDSUB: the borrow is discarded (R206). -/
def execBcdsub (p : Pred) (ra rb rt : Reg) (s : State) : Out :=
  s.bcd p ra rb rt fun a b => toBcd2 ((a + 100 - b) % 100)
/-- BCDMUL: four digits (R207). -/
def execBcdmul (p : Pred) (ra rb rt : Reg) (s : State) : Out :=
  s.bcd p ra rb rt fun a b => toBcd4 (a * b)

end Sys2Proof.Machine
end

