-- ==== Sys2Proof/Machine/Branch.lean ====
section
/-!
DEFINITION. Control transfer instructions (43_branch.md R229 to R242). There are no delay slots (R231) and no
alignment of targets (R232); `pc` is the address of the instruction sequence's first byte.
-/

namespace Sys2Proof.Machine

/-- BR (R230). -/
def execBr (p : Pred) (disp : BitVec 12) (s : State) : Out :=
  s.predicated p 3 (.next (s.jump (s.pc + brDisp disp)))

/-- JSR of `len` bytes: the base is read before the link is written, the link is the address behind the sequence
(R234; conflict C15). -/
def State.call (s : State) (p : Pred) (brt br : BReg) (off : Word) (len : Nat) : Out :=
  s.predicated p len (.next ((s.setBr brt (s.pc + BitVec.ofNat 64 len)).jump (s.getBr br + off)))

/-- JSR (R234). -/
def execJsr (p : Pred) (brt br : BReg) (off : BitVec 24) (s : State) : Out :=
  s.call p brt br (jsrOffset br off) 6
/-- BSR: JSR with br = 15, whose offset is signed (R235). -/
def execBsr (p : Pred) (brt : BReg) (off : BitVec 24) (s : State) : Out :=
  s.call p brt 15 (jsrOffset 15 off) 6
/-- JMP: JSR with brt = 0, which keeps no link (R236). -/
def execJmp (p : Pred) (br : BReg) (off : BitVec 24) (s : State) : Out :=
  s.call p 0 br (jsrOffset br off) 6

/-- RTS, long form (R238; conflict C13). -/
def execRts (p : Pred) (im br : BitVec 4) (s : State) : Out :=
  s.predicated p 3 (.next (s.jump (s.getBr br + rtsImm im)))
/-- RTS, short form: it has no predicate of its own (R239). -/
def execRtsShort (s : State) : Out := .next (s.jump (s.getBr 1))

/-- LOOP: branches and decrements when the loop counter is not 0 (R240). -/
def execLoop (p : Pred) (disp : BitVec 8) (s : State) : Out :=
  s.predicated p 3
    (.next (if s.lc = 0 then s.advance 3 else (s.setLc (s.lc - 1)).jump (s.pc + imm8 disp)))

/-- NOP (R241). -/
def execNop (s : State) : Out := .next (s.advance 1)

/-- BRK: exception 0, the return address behind it (R242). -/
def execBrk (s : State) : Out := .next (s.enter .exception vecBreak (s.pc + 1))

end Sys2Proof.Machine
end

