-- ==== Sys2Proof/Machine/Compare.lean ====
section
/-!
DEFINITION. Compare and test instructions (42_compare.md R219 to R223): the predicate is evaluated before the
target predicate register is written.
-/

namespace Sys2Proof.Machine

/-- A compare of `len` bytes that leaves these flags (R219). -/
def State.compare (s : State) (p : Pred) (pt : PReg) (flags : BitVec 4) (len : Nat) : Out :=
  s.predicated p len (.next ((s.setP pt flags).advance len))

/-- CMP (R220). -/
def execCmp (p : Pred) (pt : PReg) (ra rb : Reg) (s : State) : Out :=
  s.compare p pt (compareFlags (s.getX ra) (s.getX rb)) 4
/-- CMPI (R221). -/
def execCmpi (p : Pred) (pt : PReg) (ra : Reg) (imm : BitVec 8) (s : State) : Out :=
  s.compare p pt (compareFlags (s.getX ra) (imm8 imm)) 4
/-- TST (R222). -/
def execTst (p : Pred) (pt : PReg) (ra : Reg) (s : State) : Out :=
  s.compare p pt (testFlags (s.getX ra)) 3

end Sys2Proof.Machine
end

