-- ==== Sys2Proof/Machine/LoadStore.lean ====
section
/-!
DEFINITION. Load, store, string store and compare-and-swap instructions (44_load_store.md R260 to R306). The volatile
loads and CAS bypass a data cache that the model does not keep (20_memory.md R93).
-/

namespace Sys2Proof.Machine

/-- Width and extension of a load (R261). -/
structure LoadKind where
  bytes  : Nat
  signed : Bool
  deriving DecidableEq, Repr

/-- Width and extension by mnemonic (R262 to R268, R280 to R283). -/
def loadKind : LoadOp → LoadKind
  | .lb | .lvb => ⟨1, true⟩
  | .lbu       => ⟨1, false⟩
  | .lc | .lvc => ⟨2, true⟩
  | .lcu       => ⟨2, false⟩
  | .lh | .lvh => ⟨4, true⟩
  | .lhu       => ⟨4, false⟩
  | .lw | .lvw => ⟨8, true⟩

/-- Width of a store (R285 to R288). -/
def storeBytes : StoreOp → Nat
  | .sb => 1
  | .sc => 2
  | .sh => 4
  | .sw => 8

/-- The value a load leaves in its target: the low `8 n` bits, extended (R261). -/
def extendLoaded (k : LoadKind) (v : Word) : Word :=
  if k.signed then (v.setWidth (8 * k.bytes)).signExtend 64 else (v.setWidth (8 * k.bytes)).setWidth 64

/-- A load from a virtual address into a general register; the access is made even for register 0 (R277, D46). -/
def State.load (s : State) (k : LoadKind) (p : Pred) (a : Word) (rt : Reg) (len : Nat) : Out :=
  s.predicated p len (s.afterAccess (s.memRead a k.bytes) fun v t => t.result rt len (extendLoaded k v))

/-- A store of the low `n` bytes of `v` (R261). -/
def State.store (s : State) (n : Nat) (p : Pred) (a v : Word) (len : Nat) : Out :=
  s.predicated p len (s.afterAccess (s.memWrite a n v) fun _ t => .next (t.advance len))

/-- LWS: a word into a special purpose register; the access is made even when the write is discarded (R269). -/
def State.loadSpr (s : State) (p : Pred) (a : Word) (spr : SprNum) (len : Nat) : Out :=
  s.predicated p len (s.afterAccess (s.memRead a 8) fun v t => .next ((t.sprWrite spr v).advance len))

/-- CAS (R306). The source registers are read before the target is written. -/
def State.compareSwap (s : State) (p : Pred) (a : Word) (rb rc rt : Reg) (len : Nat) : Out :=
  s.predicated p len (s.afterAccess (s.memSwap a (s.getX rb) (s.getX rc)) fun old t => t.result rt len old)

/-! ### Displacement loads -/

/-- LB (R262). -/
def execLb (p : Pred) (ra rt : Reg) (off : BitVec 8) (s : State) : Out :=
  s.load (loadKind .lb) p (s.eaDisp ra (imm8 off)) rt 5
/-- LBU (R263). -/
def execLbu (p : Pred) (ra rt : Reg) (off : BitVec 8) (s : State) : Out :=
  s.load (loadKind .lbu) p (s.eaDisp ra (imm8 off)) rt 5
/-- LC (R264). -/
def execLc (p : Pred) (ra rt : Reg) (off : BitVec 8) (s : State) : Out :=
  s.load (loadKind .lc) p (s.eaDisp ra (imm8 off)) rt 5
/-- LCU (R265). -/
def execLcu (p : Pred) (ra rt : Reg) (off : BitVec 8) (s : State) : Out :=
  s.load (loadKind .lcu) p (s.eaDisp ra (imm8 off)) rt 5
/-- LH (R266). -/
def execLh (p : Pred) (ra rt : Reg) (off : BitVec 8) (s : State) : Out :=
  s.load (loadKind .lh) p (s.eaDisp ra (imm8 off)) rt 5
/-- LHU (R267). -/
def execLhu (p : Pred) (ra rt : Reg) (off : BitVec 8) (s : State) : Out :=
  s.load (loadKind .lhu) p (s.eaDisp ra (imm8 off)) rt 5
/-- LW (R268). -/
def execLw (p : Pred) (ra rt : Reg) (off : BitVec 8) (s : State) : Out :=
  s.load (loadKind .lw) p (s.eaDisp ra (imm8 off)) rt 5
/-- LWS (R269). -/
def execLws (p : Pred) (ra : Reg) (spr : SprNum) (off : BitVec 8) (s : State) : Out :=
  s.loadSpr p (s.eaDisp ra (imm8 off)) spr 5
/-- LVB (R280). -/
def execLvb (p : Pred) (ra rt : Reg) (off : BitVec 8) (s : State) : Out :=
  s.load (loadKind .lvb) p (s.eaDisp ra (imm8 off)) rt 5
/-- LVC (R281). -/
def execLvc (p : Pred) (ra rt : Reg) (off : BitVec 8) (s : State) : Out :=
  s.load (loadKind .lvc) p (s.eaDisp ra (imm8 off)) rt 5
/-- LVH (R282). -/
def execLvh (p : Pred) (ra rt : Reg) (off : BitVec 8) (s : State) : Out :=
  s.load (loadKind .lvh) p (s.eaDisp ra (imm8 off)) rt 5
/-- LVW: all 64 bits unchanged (R283; conflict C9). -/
def execLvw (p : Pred) (ra rt : Reg) (off : BitVec 8) (s : State) : Out :=
  s.load (loadKind .lvw) p (s.eaDisp ra (imm8 off)) rt 5

/-! ### Indexed loads -/

/-- LBX: sign-extends (R270; conflict C10). -/
def execLbx (p : Pred) (ra rb rt : Reg) (s : State) : Out := s.load (loadKind .lb) p (s.eaIndex ra rb) rt 5
/-- LBUX (R271). -/
def execLbux (p : Pred) (ra rb rt : Reg) (s : State) : Out := s.load (loadKind .lbu) p (s.eaIndex ra rb) rt 5
/-- LCX (R272). -/
def execLcx (p : Pred) (ra rb rt : Reg) (s : State) : Out := s.load (loadKind .lc) p (s.eaIndex ra rb) rt 5
/-- LCUX (R273; conflict C11). -/
def execLcux (p : Pred) (ra rb rt : Reg) (s : State) : Out := s.load (loadKind .lcu) p (s.eaIndex ra rb) rt 5
/-- LHX (R274). -/
def execLhx (p : Pred) (ra rb rt : Reg) (s : State) : Out := s.load (loadKind .lh) p (s.eaIndex ra rb) rt 5
/-- LHUX (R275). -/
def execLhux (p : Pred) (ra rb rt : Reg) (s : State) : Out := s.load (loadKind .lhu) p (s.eaIndex ra rb) rt 5
/-- LWX (R276). -/
def execLwx (p : Pred) (ra rb rt : Reg) (s : State) : Out := s.load (loadKind .lw) p (s.eaIndex ra rb) rt 5

/-! ### Stores -/

/-- SB (R285). -/
def execSb (p : Pred) (ra rs : Reg) (off : BitVec 8) (s : State) : Out :=
  s.store (storeBytes .sb) p (s.eaDisp ra (imm8 off)) (s.getX rs) 5
/-- SC (R286). -/
def execSc (p : Pred) (ra rs : Reg) (off : BitVec 8) (s : State) : Out :=
  s.store (storeBytes .sc) p (s.eaDisp ra (imm8 off)) (s.getX rs) 5
/-- SH (R287). -/
def execSh (p : Pred) (ra rs : Reg) (off : BitVec 8) (s : State) : Out :=
  s.store (storeBytes .sh) p (s.eaDisp ra (imm8 off)) (s.getX rs) 5
/-- SW (R288). -/
def execSw (p : Pred) (ra rs : Reg) (off : BitVec 8) (s : State) : Out :=
  s.store (storeBytes .sw) p (s.eaDisp ra (imm8 off)) (s.getX rs) 5
/-- STI: the data is zero-extended to a whole word (R289). -/
def execSti (p : Pred) (ra : Reg) (imm off : BitVec 8) (s : State) : Out :=
  s.store 8 p (s.eaDisp ra (imm8 off)) (immZero imm) 5
/-- SWS (R290). -/
def execSws (p : Pred) (ra : Reg) (spr : SprNum) (off : BitVec 8) (s : State) : Out :=
  s.store 8 p (s.eaDisp ra (imm8 off)) (s.sprRead spr) 5
/-- SBX: the data register is the third (R291; conflict C4). -/
def execSbx (p : Pred) (ra rb rs : Reg) (s : State) : Out :=
  s.store (storeBytes .sb) p (s.eaIndex ra rb) (s.getX rs) 5
/-- SCX (R292). -/
def execScx (p : Pred) (ra rb rs : Reg) (s : State) : Out :=
  s.store (storeBytes .sc) p (s.eaIndex ra rb) (s.getX rs) 5
/-- SHX (R293). -/
def execShx (p : Pred) (ra rb rs : Reg) (s : State) : Out :=
  s.store (storeBytes .sh) p (s.eaIndex ra rb) (s.getX rs) 5
/-- SWX (R294). -/
def execSwx (p : Pred) (ra rb rs : Reg) (s : State) : Out :=
  s.store (storeBytes .sw) p (s.eaIndex ra rb) (s.getX rs) 5

/-! ### String stores -/

/-- Stores `count` elements of `n` bytes at rising addresses, the loop counter falling by one with each. An element
that traps leaves the earlier ones stored and the counter reduced by their number (R300 to R302; log entry 24). -/
def State.fill (s : State) (a v : Word) (n : Nat) (count : Nat) : Access Unit :=
  match count with
  | 0 => .ok () s
  | k + 1 =>
    match s.memWrite a n v with
    | .ok _ t => (t.setLc (t.lc - 1)).fill (a + BitVec.ofNat 64 n) v n k
    | .trap w t => .trap w t
    | .fault r => .fault r

/-- A string store: as many elements as the loop counter says (R300, R301). -/
def State.stringStore (s : State) (n : Nat) (p : Pred) (ra rb : Reg) : Out :=
  s.predicated p 4 (s.afterAccess (s.fill (s.getX ra) (s.getX rb) n s.lc.toNat) fun _ t => .next (t.advance 4))

/-- STSB (R300). -/
def execStsb (p : Pred) (ra rb : Reg) (s : State) : Out := s.stringStore 1 p ra rb
/-- STSW (R301). -/
def execStsw (p : Pred) (ra rb : Reg) (s : State) : Out := s.stringStore 8 p ra rb

/-- CAS (R306). -/
def execCas (p : Pred) (ra rb rc rt : Reg) (off : BitVec 8) (s : State) : Out :=
  s.compareSwap p (s.eaDisp ra (imm8 off)) rb rc rt 7

end Sys2Proof.Machine
end

