-- ==== Sys2Proof/Machine/System.lean ====
section
/-!
DEFINITION. Special registers, interrupt mask, barriers, system call and return (45_system.md R320 to R341). None is
privileged (60_exceptions.md R398).
-/

namespace Sys2Proof.Machine

/-- Writes a special purpose register and goes on. -/
def State.writeSpr (s : State) (p : Pred) (spr : SprNum) (v : Word) (len : Nat) : Out :=
  s.predicated p len (.next ((s.sprWrite spr v).advance len))

/-- MFSPR (R320). -/
def execMfspr (p : Pred) (spr : SprNum) (rt : Reg) (s : State) : Out :=
  s.predicated p 4 (s.result rt 4 (s.sprRead spr))
/-- MTSPR (R321). -/
def execMtspr (p : Pred) (ra : Reg) (spr : SprNum) (s : State) : Out := s.writeSpr p spr (s.getX ra) 4
/-- MOVS (R322). -/
def execMovs (p : Pred) (spra sprt : SprNum) (s : State) : Out := s.writeSpr p sprt (s.sprRead spra) 4
/-- LDIS (R323). -/
def execLdis (p : Pred) (spr : SprNum) (imm : BitVec 8) (s : State) : Out := s.writeSpr p spr (imm8 imm) 4

/-- Sets the interrupt mask; the backup half keeps its value (R324, R325). -/
def State.setIm (s : State) (b : Bool) : State :=
  s.setStatus s.statusBackup
    (if b then s.statusLow ||| 0x8000#16 else s.statusLow &&& 0x7FFF#16)

/-- CLI (R324). -/
def execCli (p : Pred) (s : State) : Out := s.predicated p 2 (.next ((s.setIm false).advance 2))
/-- SEI (R325). -/
def execSei (p : Pred) (s : State) : Out := s.predicated p 2 (.next ((s.setIm true).advance 2))

/-- MEMDB: accesses are in program order already, so only the pc moves, under a true predicate as under a false one
(R326; conflict C5). -/
def execMemdb (_p : Pred) (s : State) : Out := .next (s.advance 2)
/-- MEMSB: earlier stores are done; a fetch sees them after the next control transfer (R327, 20_memory.md R99). It acts
under a false predicate too (70_reset_and_hazards.md R432; log entry 23). -/
def execMemsb (_p : Pred) (s : State) : Out := .next (s.drain.advance 2)

/-- SYS: an exception, the return address behind it (R330). -/
def execSys (p : Pred) (vec : BitVec 8) (s : State) : Out :=
  s.predicated p 4 (.next (s.enter .exception vec (s.pc + 4)))
/-- INT: an interrupt, the return address is the INT's own (R331). -/
def execInt (p : Pred) (vec : BitVec 8) (s : State) : Out :=
  s.predicated p 4 (.next (s.enter .interrupt vec s.pc))
/-- RTE (R332). -/
def execRte (p : Pred) (s : State) : Out := s.predicated p 2 (.next (s.leave .exception))
/-- RTI (R333). -/
def execRti (p : Pred) (s : State) : Out := s.predicated p 2 (.next (s.leave .interrupt))

end Sys2Proof.Machine
end

