-- ==== Sys2Proof/Machine/Prefixed.lean ====
section
/-!
DEFINITION. Immediate prefixes (45_system.md R365, 30_encoding.md R116 to R122): a prefix and the instruction behind it
are one architectural instruction.
-/

namespace Sys2Proof.Machine

/-- An extended instruction behind a prefix of `n` bytes, its immediate being `imm` (R116, R118). -/
def State.extended (s : State) (n : Nat) (imm : Word) (e : Ext) : Out :=
  match e with
  | .alu op p ra rt _ => s.immAlu op p ra rt imm (n + 5)
  | .cmpi p pt ra _ => s.compare p pt (compareFlags (s.getX ra) imm) (n + 4)
  | .ldi p rt _ => s.loadImm p rt imm (n + 4)
  | .ldis p spr _ => s.writeSpr p spr imm (n + 4)
  | .load op p ra rt _ => s.load (loadKind op) p (s.eaDisp ra imm) rt (n + 5)
  | .lws p ra spr _ => s.loadSpr p (s.eaDisp ra imm) spr (n + 5)
  | .store op p ra rs _ => s.store (storeBytes op) p (s.eaDisp ra imm) (s.getX rs) (n + 5)
  | .sws p ra spr _ => s.store 8 p (s.eaDisp ra imm) (s.sprRead spr) (n + 5)
  | .cas p ra rb rc rt _ => s.compareSwap p (s.eaDisp ra imm) rb rc rt (n + 7)
  | .jsr p brt br _ => s.call p brt br imm (n + 6)

/-- IMM16 (R365). -/
def execImm16 (k : BitVec 8) (e : Ext) (s : State) : Out := s.extended 2 (immPrefixed k (extField e)) e
/-- IMM24 (R365). -/
def execImm24 (k : BitVec 16) (e : Ext) (s : State) : Out := s.extended 3 (immPrefixed k (extField e)) e
/-- IMM32 (R365). -/
def execImm32 (k : BitVec 24) (e : Ext) (s : State) : Out := s.extended 4 (immPrefixed k (extField e)) e
/-- IMM40 (R365). -/
def execImm40 (k : BitVec 32) (e : Ext) (s : State) : Out := s.extended 5 (immPrefixed k (extField e)) e
/-- IMM48 (R365). -/
def execImm48 (k : BitVec 40) (e : Ext) (s : State) : Out := s.extended 6 (immPrefixed k (extField e)) e
/-- IMM56 (R365). -/
def execImm56 (k : BitVec 48) (e : Ext) (s : State) : Out := s.extended 7 (immPrefixed k (extField e)) e
/-- IMM64 (R365). -/
def execImm64 (k : BitVec 56) (e : Ext) (s : State) : Out := s.extended 8 (immPrefixed k (extField e)) e

end Sys2Proof.Machine
end

