-- ==== Sys2Proof/Machine/Tlb.lean ====
section
/-!
DEFINITION. The TLB instruction's commands (45_system.md R350 to R362).
-/

namespace Sys2Proof.Machine

/-- A command that always goes on. -/
def State.tlbCommand (s : State) (p : Pred) (t : State) : Out := s.predicated p 4 (.next (t.advance 4))

/-- TLB command 0 (R352). -/
def execTlbnop (p : Pred) (_tn : BitVec 4) (_r : Reg) (s : State) : Out := s.tlbCommand p s

/-- One of the entries a probe hit; which of several is free (R86, R353; log entry 12). -/
def pickHit (hits : List (Fin 64)) (draw : Nat) : Option (Fin 64) :=
  match hits with
  | [] => none
  | [i] => some i
  | i :: j :: r => (i :: j :: r)[draw % (r.length + 2)]?

/-- What a probe leaves in Index: the entry's number, or bit 63 alone (R353). -/
def State.probeResult (s : State) : Word :=
  match pickHit (s.tlbHits s.tlbRegs.asid.asid (s.tlbRegs.virtPage.extractLsb' 0 52)) (Config.probeChoice s.now) with
  | some i => BitVec.ofNat 64 i.val
  | none => 0x8000000000000000

/-- TLBPB: the key is in the holding registers (R353). -/
def execTlbpb (p : Pred) (_tn : BitVec 4) (_r : Reg) (s : State) : Out :=
  s.tlbCommand p (s.setTlbRegs { s.tlbRegs with index := s.probeResult })

/-- The entry the Index register names (R351, R354). -/
def State.indexEntry (s : State) : Fin 64 := (s.tlbRegs.index.extractLsb' 0 6).toFin

/-- TLBRD: the entry goes to the holding registers (R354). -/
def State.readEntry (s : State) : State :=
  let e := s.tlb[s.indexEntry.val]'s.indexEntry.isLt
  s.setTlbRegs
    { s.tlbRegs with
      virtPage := e.vpn.setWidth 64
      physPage := e.ppn.setWidth 64
      asid := { asid := e.asid, c := e.c, g := e.g, d := e.d, v := e.v } }

/-- TLBRD (R354). -/
def execTlbrd (p : Pred) (_tn : BitVec 4) (_r : Reg) (s : State) : Out := s.tlbCommand p s.readEntry

/-- The entry the holding registers describe (R356). -/
def State.heldEntry (s : State) : TlbEntry :=
  { c := s.tlbRegs.asid.c, g := s.tlbRegs.asid.g, d := s.tlbRegs.asid.d, v := s.tlbRegs.asid.v,
    asid := s.tlbRegs.asid.asid,
    vpn := s.tlbRegs.virtPage.extractLsb' 0 52, ppn := s.tlbRegs.physPage.extractLsb' 0 52 }

/-- The set of the page in VirtPage: the three page-number bits above the insignificant ones (R355). -/
def State.heldSet (s : State) : BitVec 3 := s.tlbRegs.virtPage.extractLsb' (pageBits s.tlbRegs.pageSize) 3

/-- TLBWR: entry 8 * way + set of a random way; with every way wired nothing is written (R355; log entry 6). -/
def State.writeRandom (s : State) : State :=
  if s.tlbRegs.wired.toNat < 8 then s.setTlb (s.randomWay ++ s.heldSet : BitVec 6).toFin s.heldEntry else s

/-- TLBWR (R355). -/
def execTlbwr (p : Pred) (_tn : BitVec 4) (_r : Reg) (s : State) : Out := s.tlbCommand p s.writeRandom
/-- TLBWI: Wired does not restrict it (R356). -/
def execTlbwi (p : Pred) (_tn : BitVec 4) (_r : Reg) (s : State) : Out :=
  s.tlbCommand p (s.setTlb s.indexEntry s.heldEntry)
/-- TLBEN (R357). -/
def execTlben (p : Pred) (_tn : BitVec 4) (_r : Reg) (s : State) : Out := s.tlbCommand p (s.setTlbEnabled true)
/-- TLBDIS: entries and registers keep their contents (R358). -/
def execTlbdis (p : Pred) (_tn : BitVec 4) (_r : Reg) (s : State) : Out := s.tlbCommand p (s.setTlbEnabled false)
/-- TLBRDREG (R359); a reserved register number is refused when the instruction executes (U8). -/
def execTlbrdreg (p : Pred) (tn : BitVec 4) (rt : Reg) (s : State) : Out :=
  s.predicated p 4
    (match s.tlbRegRead tn with
     | some v => s.result rt 4 v
     | none => .refused .reservedTlbRegister)
/-- TLBWRREG (R360); a reserved register number or page size is refused when the instruction executes (U8, U9). -/
def execTlbwrreg (p : Pred) (tn : BitVec 4) (rb : Reg) (s : State) : Out :=
  s.predicated p 4
    (match s.tlbRegWrite tn (s.getX rb) with
     | .ok t => .next (t.advance 4)
     | .error r => .refused r)

end Sys2Proof.Machine
end

