-- ==== Sys2Proof/Machine/Dispatch.lean ====
section
/-!
DEFINITION. The dispatch: one arm for each constructor of `Instr`, each a direct call of its meaning.
-/

namespace Sys2Proof.Machine

/-- What an instruction does (R16; files 40 to 45 of the spec). -/
def exec (i : Instr) (s : State) : Host.Outcome State Fault Refusal :=
  match i with
  | .brk => Sys2Proof.Machine.execBrk s
  | .nop => Sys2Proof.Machine.execNop s
  | .rtsShort => Sys2Proof.Machine.execRtsShort s
  | .imm16 k e => Sys2Proof.Machine.execImm16 k e s
  | .imm24 k e => Sys2Proof.Machine.execImm24 k e s
  | .imm32 k e => Sys2Proof.Machine.execImm32 k e s
  | .imm40 k e => Sys2Proof.Machine.execImm40 k e s
  | .imm48 k e => Sys2Proof.Machine.execImm48 k e s
  | .imm56 k e => Sys2Proof.Machine.execImm56 k e s
  | .imm64 k e => Sys2Proof.Machine.execImm64 k e s
  | .tst p pt ra => Sys2Proof.Machine.execTst p pt ra s
  | .cmp p pt ra rb => Sys2Proof.Machine.execCmp p pt ra rb s
  | .cmpi p pt ra imm => Sys2Proof.Machine.execCmpi p pt ra imm s
  | .br p disp => Sys2Proof.Machine.execBr p disp s
  | .add p ra rb rt => Sys2Proof.Machine.execAdd p ra rb rt s
  | .sub p ra rb rt => Sys2Proof.Machine.execSub p ra rb rt s
  | .addu p ra rb rt => Sys2Proof.Machine.execAddu p ra rb rt s
  | .subu p ra rb rt => Sys2Proof.Machine.execSubu p ra rb rt s
  | .and p ra rb rt => Sys2Proof.Machine.execAnd p ra rb rt s
  | .or p ra rb rt => Sys2Proof.Machine.execOr p ra rb rt s
  | .eor p ra rb rt => Sys2Proof.Machine.execEor p ra rb rt s
  | .addu2 p ra rb rt => Sys2Proof.Machine.execAddu2 p ra rb rt s
  | .addu4 p ra rb rt => Sys2Proof.Machine.execAddu4 p ra rb rt s
  | .addu8 p ra rb rt => Sys2Proof.Machine.execAddu8 p ra rb rt s
  | .addu16 p ra rb rt => Sys2Proof.Machine.execAddu16 p ra rb rt s
  | .addi p ra rt imm => Sys2Proof.Machine.execAddi p ra rt imm s
  | .subi p ra rt imm => Sys2Proof.Machine.execSubi p ra rt imm s
  | .addui p ra rt imm => Sys2Proof.Machine.execAddui p ra rt imm s
  | .subui p ra rt imm => Sys2Proof.Machine.execSubui p ra rt imm s
  | .andi p ra rt imm => Sys2Proof.Machine.execAndi p ra rt imm s
  | .ori p ra rt imm => Sys2Proof.Machine.execOri p ra rt imm s
  | .eori p ra rt imm => Sys2Proof.Machine.execEori p ra rt imm s
  | .addui2 p ra rt imm => Sys2Proof.Machine.execAddui2 p ra rt imm s
  | .addui4 p ra rt imm => Sys2Proof.Machine.execAddui4 p ra rt imm s
  | .addui8 p ra rt imm => Sys2Proof.Machine.execAddui8 p ra rt imm s
  | .addui16 p ra rt imm => Sys2Proof.Machine.execAddui16 p ra rt imm s
  | .lea p ra rt off => Sys2Proof.Machine.execLea p ra rt off s
  | .ldi p rt imm => Sys2Proof.Machine.execLdi p rt imm s
  | .ldit8 p rt imm => Sys2Proof.Machine.execLdit8 p rt imm s
  | .ldis p spr imm => Sys2Proof.Machine.execLdis p spr imm s
  | .neg p ra rt => Sys2Proof.Machine.execNeg p ra rt s
  | .mov p ra rt => Sys2Proof.Machine.execMov p ra rt s
  | .mfspr p spr rt => Sys2Proof.Machine.execMfspr p spr rt s
  | .mtspr p ra spr => Sys2Proof.Machine.execMtspr p ra spr s
  | .movs p spra sprt => Sys2Proof.Machine.execMovs p spra sprt s
  | .stsb p ra rb => Sys2Proof.Machine.execStsb p ra rb s
  | .stsw p ra rb => Sys2Proof.Machine.execStsw p ra rb s
  | .mux p ra rb rc rt => Sys2Proof.Machine.execMux p ra rb rc rt s
  | .lb p ra rt off => Sys2Proof.Machine.execLb p ra rt off s
  | .lbu p ra rt off => Sys2Proof.Machine.execLbu p ra rt off s
  | .lc p ra rt off => Sys2Proof.Machine.execLc p ra rt off s
  | .lcu p ra rt off => Sys2Proof.Machine.execLcu p ra rt off s
  | .lh p ra rt off => Sys2Proof.Machine.execLh p ra rt off s
  | .lhu p ra rt off => Sys2Proof.Machine.execLhu p ra rt off s
  | .lw p ra rt off => Sys2Proof.Machine.execLw p ra rt off s
  | .lws p ra spr off => Sys2Proof.Machine.execLws p ra spr off s
  | .sb p ra rs off => Sys2Proof.Machine.execSb p ra rs off s
  | .sc p ra rs off => Sys2Proof.Machine.execSc p ra rs off s
  | .sh p ra rs off => Sys2Proof.Machine.execSh p ra rs off s
  | .sw p ra rs off => Sys2Proof.Machine.execSw p ra rs off s
  | .sws p ra spr off => Sys2Proof.Machine.execSws p ra spr off s
  | .sti p ra imm off => Sys2Proof.Machine.execSti p ra imm off s
  | .cas p ra rb rc rt off => Sys2Proof.Machine.execCas p ra rb rc rt off s
  | .lvb p ra rt off => Sys2Proof.Machine.execLvb p ra rt off s
  | .lvc p ra rt off => Sys2Proof.Machine.execLvc p ra rt off s
  | .lvh p ra rt off => Sys2Proof.Machine.execLvh p ra rt off s
  | .lvw p ra rt off => Sys2Proof.Machine.execLvw p ra rt off s
  | .lbx p ra rb rt => Sys2Proof.Machine.execLbx p ra rb rt s
  | .lbux p ra rb rt => Sys2Proof.Machine.execLbux p ra rb rt s
  | .lcx p ra rb rt => Sys2Proof.Machine.execLcx p ra rb rt s
  | .lcux p ra rb rt => Sys2Proof.Machine.execLcux p ra rb rt s
  | .lhx p ra rb rt => Sys2Proof.Machine.execLhx p ra rb rt s
  | .lhux p ra rb rt => Sys2Proof.Machine.execLhux p ra rb rt s
  | .lwx p ra rb rt => Sys2Proof.Machine.execLwx p ra rb rt s
  | .sbx p ra rb rs => Sys2Proof.Machine.execSbx p ra rb rs s
  | .scx p ra rb rs => Sys2Proof.Machine.execScx p ra rb rs s
  | .shx p ra rb rs => Sys2Proof.Machine.execShx p ra rb rs s
  | .swx p ra rb rs => Sys2Proof.Machine.execSwx p ra rb rs s
  | .jsr p brt br off => Sys2Proof.Machine.execJsr p brt br off s
  | .bsr p brt off => Sys2Proof.Machine.execBsr p brt off s
  | .jmp p br off => Sys2Proof.Machine.execJmp p br off s
  | .rts p im br => Sys2Proof.Machine.execRts p im br s
  | .loop p disp => Sys2Proof.Machine.execLoop p disp s
  | .sys p vec => Sys2Proof.Machine.execSys p vec s
  | .int p vec => Sys2Proof.Machine.execInt p vec s
  | .bfins p ra rt mb me => Sys2Proof.Machine.execBfins p ra rt mb me s
  | .bfset p ra rt mb me => Sys2Proof.Machine.execBfset p ra rt mb me s
  | .bfclr p ra rt mb me => Sys2Proof.Machine.execBfclr p ra rt mb me s
  | .bfchg p ra rt mb me => Sys2Proof.Machine.execBfchg p ra rt mb me s
  | .bfextu p ra rt mb me => Sys2Proof.Machine.execBfextu p ra rt mb me s
  | .bfext p ra rt mb me => Sys2Proof.Machine.execBfext p ra rt mb me s
  | .tlbnop p tn r => Sys2Proof.Machine.execTlbnop p tn r s
  | .tlbpb p tn r => Sys2Proof.Machine.execTlbpb p tn r s
  | .tlbrd p tn r => Sys2Proof.Machine.execTlbrd p tn r s
  | .tlbwr p tn r => Sys2Proof.Machine.execTlbwr p tn r s
  | .tlbwi p tn r => Sys2Proof.Machine.execTlbwi p tn r s
  | .tlben p tn r => Sys2Proof.Machine.execTlben p tn r s
  | .tlbdis p tn r => Sys2Proof.Machine.execTlbdis p tn r s
  | .tlbrdreg p tn rt => Sys2Proof.Machine.execTlbrdreg p tn rt s
  | .tlbwrreg p tn rb => Sys2Proof.Machine.execTlbwrreg p tn rb s
  | .rte p => Sys2Proof.Machine.execRte p s
  | .rti p => Sys2Proof.Machine.execRti p s
  | .memsb p => Sys2Proof.Machine.execMemsb p s
  | .memdb p => Sys2Proof.Machine.execMemdb p s
  | .cli p => Sys2Proof.Machine.execCli p s
  | .sei p => Sys2Proof.Machine.execSei p s
  | .bcdadd p ra rb rt => Sys2Proof.Machine.execBcdadd p ra rb rt s
  | .bcdsub p ra rb rt => Sys2Proof.Machine.execBcdsub p ra rb rt s
  | .bcdmul p ra rb rt => Sys2Proof.Machine.execBcdmul p ra rb rt s

end Sys2Proof.Machine
end

