-- ==== Sys2Proof/WellFormed.lean ====
section
/-!
DEFINITION. Well-formedness: which terms of the syntax have an encoding. Every field's range is in its type, so
only the predicate byte needs a check.
-/

namespace Sys2Proof

/-- A predicate an ordinary instruction can carry. Condition PF cannot be encoded, since every byte with
condition 0 is special, and predicate register 1 with PT is the byte of the short RTS (R111; conflict C14). -/
def Pred.wf (p : Pred) : Bool :=
  p.cond != .pf && !(p.pn == 1#4 && p.cond == .pt)

/-- An instruction is well-formed when its predicate can be encoded. -/
def Instr.wf (i : Instr) : Bool :=
  match i.pred? with
  | none => true
  | some p => p.wf

end Sys2Proof
end

