-- ==== Sys2Proof/Decode.lean ====
section
/-!
DEFINITION. The decoder, total on any list of bytes and rejecting by name (30_encoding.md R110 to R144), and the
encoder written from the same tables. Bytes stand in address order, byte 0 first (00_scope.md R13).
-/

namespace Sys2Proof

/-- What the decoder answers. -/
inductive Decoded where
  /-- an instruction and how many bytes it takes, its prefix included (R113, R116) -/
  | instr (i : Instr) (len : Nat)
  /-- an unassigned opcode or sub-code under this predicate (R140 to R142) -/
  | unassigned (p : Pred)
  /-- a reserved encoding (R143) -/
  | reserved (r : Reserved)
  /-- the instruction goes on past the bytes given -/
  | truncated
  deriving DecidableEq, Repr

/-- What byte 0 says (R111). -/
inductive Lead where
  | brk | nop | rtsShort
  /-- an immediate prefix of `n` bytes -/
  | prefixed (n : Nat)
  | ordinary (p : Pred)
  | reserved (r : Reserved)
  deriving DecidableEq, Repr

/-- The condition of a code; 12, 14 and 15 are reserved (R34, R112). -/
def Cond.ofCode (c : BitVec 4) : Option Cond :=
  match c with
  | 0#4 => some .pf
  | 1#4 => some .pt
  | 2#4 => some .peq
  | 3#4 => some .pne
  | 4#4 => some .ple
  | 5#4 => some .pgt
  | 6#4 => some .pge
  | 7#4 => some .plt
  | 8#4 => some .pleu
  | 9#4 => some .pgtu
  | 10#4 => some .pgeu
  | 11#4 => some .pltu
  | 13#4 => some .psig
  | _ => none

/-- The code of a condition (R34). -/
def Cond.code : Cond → BitVec 4
  | .pf => 0 | .pt => 1 | .peq => 2 | .pne => 3 | .ple => 4 | .pgt => 5 | .pge => 6 | .plt => 7
  | .pleu => 8 | .pgtu => 9 | .pgeu => 10 | .pltu => 11 | .psig => 13

/-- The low and the high nibble of a byte. -/
def loNibble (b : Byte) : BitVec 4 := b.extractLsb' 0 4

/-- The high nibble of a byte. -/
def hiNibble (b : Byte) : BitVec 4 := b.extractLsb' 4 4

/-- The classes of byte 0, in the order of R111. -/
def lead (b : Byte) : Lead :=
  if b = 0x00#8 then .brk
  else if b = 0x10#8 then .nop
  else if b = 0x11#8 then .rtsShort
  else if loNibble b = 0#4 then
    if (hiNibble b).toNat ≤ 8 then .prefixed (hiNibble b).toNat else .reserved .predicateByte
  else
    match Cond.ofCode (loNibble b) with
    | none => .reserved .condition
    | some c => .ordinary ⟨hiNibble b, c⟩

/-! ### Formats (R115): each takes the bytes behind the opcode byte -/

/-- CTRL: two bytes. -/
def fmtCtrl (i : Instr) : Decoded := .instr i 2

/-- One operand byte: TST, BR, LOOP, RTS. -/
def fmt1 (f : Byte → Instr) : List Byte → Decoded
  | a :: _ => .instr (f a) 3
  | [] => .truncated

/-- Two operand bytes: CMP, CMPI, R2, LDI. -/
def fmt2 (f : Byte → Byte → Instr) : List Byte → Decoded
  | a :: b :: _ => .instr (f a b) 4
  | _ => .truncated

/-- Three operand bytes: RR, RI, STI. -/
def fmt3 (f : Byte → Byte → Byte → Instr) : List Byte → Decoded
  | a :: b :: c :: _ => .instr (f a b c) 5
  | _ => .truncated

/-- Four operand bytes: R4. -/
def fmt4 (f : Byte → Byte → Byte → Byte → Instr) : List Byte → Decoded
  | a :: b :: c :: d :: _ => .instr (f a b c d) 6
  | _ => .truncated

/-- Five operand bytes: CAS. -/
def fmt5 (f : Byte → Byte → Byte → Byte → Byte → Instr) : List Byte → Decoded
  | a :: b :: c :: d :: e :: _ => .instr (f a b c d e) 7
  | _ => .truncated

/-- The row of a JSR-shaped instruction: BSR when br = 15, else JMP when brt = 0, else JSR (R146; log entry 27). -/
def jsrRow (p : Pred) (brt br : BReg) (off : BitVec 24) : Instr :=
  if br = 15#4 then .bsr p brt off else if brt = 0#4 then .jmp p br off else .jsr p brt br off

/-- JSR: byte 2 is br over brt, bytes 3 to 5 the offset, low byte first. -/
def fmtJsr (p : Pred) : List Byte → Decoded
  | a :: b :: c :: d :: _ => .instr (jsrRow p (loNibble a) (hiNibble a) (d ++ c ++ b)) 6
  | _ => .truncated

/-- SYS and INT: byte 2 is fixed (R128). -/
def fmtSys (fixed : Byte) (f : BitVec 8 → Instr) : List Byte → Decoded
  | a :: b :: _ => if a = fixed then .instr (f b) 4 else .reserved .sysForm
  | _ => .truncated

/-- The bitfield instruction of a function code; 6 to 15 are unassigned (R142). -/
def bfRow (func : BitVec 4) (p : Pred) (ra rt : Reg) (mb me : BitVec 6) : Option Instr :=
  match func with
  | 0#4 => some (.bfins p ra rt mb me)
  | 1#4 => some (.bfset p ra rt mb me)
  | 2#4 => some (.bfclr p ra rt mb me)
  | 3#4 => some (.bfchg p ra rt mb me)
  | 4#4 => some (.bfextu p ra rt mb me)
  | 5#4 => some (.bfext p ra rt mb me)
  | _ => none

/-- BF: byte 4 is me[1:0] over mb, byte 5 the function over me[5:2] (R115, R197). -/
def fmtBf (p : Pred) : List Byte → Decoded
  | a :: t :: c :: d :: _ =>
    match bfRow (hiNibble d) p a t (c.extractLsb' 0 6) (loNibble d ++ c.extractLsb' 6 2) with
    | some i => .instr i 6
    | none => .unassigned p
  | _ => .truncated

/-- The BCD instruction of a function code; 3 to 255 are unassigned (R142). -/
def bcdRow (func : BitVec 8) (p : Pred) (ra rb rt : Reg) : Option Instr :=
  match func with
  | 0#8 => some (.bcdadd p ra rb rt)
  | 1#8 => some (.bcdsub p ra rb rt)
  | 2#8 => some (.bcdmul p ra rb rt)
  | _ => none

/-- BCD (R115, R204). -/
def fmtBcd (p : Pred) : List Byte → Decoded
  | a :: b :: t :: f :: _ =>
    match bcdRow f p a b t with
    | some i => .instr i 6
    | none => .unassigned p
  | _ => .truncated

/-- The TLB command of a code; 9 to 15 are unassigned (R142, R350). -/
def tlbRow (cmd : BitVec 4) (p : Pred) (tn : BitVec 4) (r : Reg) : Option Instr :=
  match cmd with
  | 0#4 => some (.tlbnop p tn r)
  | 1#4 => some (.tlbpb p tn r)
  | 2#4 => some (.tlbrd p tn r)
  | 3#4 => some (.tlbwr p tn r)
  | 4#4 => some (.tlbwi p tn r)
  | 5#4 => some (.tlben p tn r)
  | 6#4 => some (.tlbdis p tn r)
  | 7#4 => some (.tlbrdreg p tn r)
  | 8#4 => some (.tlbwrreg p tn r)
  | _ => none

/-- TLB: byte 2 is tn over the command, byte 3 the register (R115, R350). -/
def fmtTlb (p : Pred) : List Byte → Decoded
  | a :: r :: _ =>
    match tlbRow (loNibble a) p (hiNibble a) r with
    | some i => .instr i 4
    | none => .unassigned p
  | _ => .truncated

/-- The opcodes 40h to FFh (R124 to R127); a byte not listed is unassigned (R142). -/
def decodeOpcode (p : Pred) (op : Byte) (r : List Byte) : Decoded :=
  match op with
  | 0x40#8 => fmt3 (.add p) r
  | 0x41#8 => fmt3 (.sub p) r
  | 0x44#8 => fmt3 (.addu p) r
  | 0x45#8 => fmt3 (.subu p) r
  | 0x48#8 => fmt3 (.addi p) r
  | 0x49#8 => fmt3 (.subi p) r
  | 0x4C#8 => fmt3 (.addui p) r
  | 0x4D#8 => fmt3 (.subui p) r
  | 0x50#8 => fmt3 (.and p) r
  | 0x51#8 => fmt3 (.or p) r
  | 0x52#8 => fmt3 (.eor p) r
  | 0x53#8 => fmt3 (.andi p) r
  | 0x54#8 => fmt3 (.ori p) r
  | 0x55#8 => fmt3 (.eori p) r
  | 0x56#8 => fmt3 (.addu2 p) r
  | 0x57#8 => fmt3 (.addu4 p) r
  | 0x64#8 => fmt3 (.addu8 p) r
  | 0x65#8 => fmt3 (.addu16 p) r
  | 0x6B#8 => fmt3 (.addui2 p) r
  | 0x6C#8 => fmt3 (.addui4 p) r
  | 0x6D#8 => fmt3 (.addui8 p) r
  | 0x6E#8 => fmt3 (.addui16 p) r
  | 0x6F#8 => fmt2 (.ldi p) r
  | 0x70#8 => fmt2 (.neg p) r
  | 0x72#8 => fmt4 (.mux p) r
  | 0x80#8 => fmt3 (.lb p) r
  | 0x81#8 => fmt3 (.lbu p) r
  | 0x82#8 => fmt3 (.lc p) r
  | 0x83#8 => fmt3 (.lcu p) r
  | 0x84#8 => fmt3 (.lh p) r
  | 0x85#8 => fmt3 (.lhu p) r
  | 0x86#8 => fmt3 (.lw p) r
  | 0x8E#8 => fmt3 (.lws p) r
  | 0x90#8 => fmt3 (.sb p) r
  | 0x91#8 => fmt3 (.sc p) r
  | 0x92#8 => fmt3 (.sh p) r
  | 0x93#8 => fmt3 (.sw p) r
  | 0x96#8 => fmt3 (.sti p) r
  | 0x97#8 => fmt5 (.cas p) r
  | 0x98#8 => fmt2 (.stsb p) r
  | 0x9A#8 => fmt2 (.stsw p) r
  | 0x9C#8 => fmt2 (.ldit8 p) r
  | 0x9D#8 => fmt2 (.ldis p) r
  | 0x9E#8 => fmt3 (.sws p) r
  | 0xA2#8 => fmtJsr p r
  | 0xA3#8 => fmt1 (fun b => .rts p (loNibble b) (hiNibble b)) r
  | 0xA4#8 => fmt1 (.loop p) r
  | 0xA5#8 => fmtSys 0xCD#8 (.sys p) r
  | 0xA6#8 => fmtSys 0xCE#8 (.int p) r
  | 0xA7#8 => fmt2 (.mov p) r
  | 0xA8#8 => fmt2 (.mfspr p) r
  | 0xA9#8 => fmt2 (.mtspr p) r
  | 0xAA#8 => fmtBf p r
  | 0xAB#8 => fmt2 (.movs p) r
  | 0xB0#8 => fmt3 (.lbx p) r
  | 0xB1#8 => fmt3 (.lbux p) r
  | 0xB2#8 => fmt3 (.lcx p) r
  | 0xB3#8 => fmt3 (.lcux p) r
  | 0xB4#8 => fmt3 (.lhx p) r
  | 0xB5#8 => fmt3 (.lhux p) r
  | 0xB6#8 => fmt3 (.lwx p) r
  | 0xC0#8 => fmt3 (.sbx p) r
  | 0xC1#8 => fmt3 (.scx p) r
  | 0xC2#8 => fmt3 (.shx p) r
  | 0xC3#8 => fmt3 (.swx p) r
  | 0xD0#8 => fmt3 (.lvb p) r
  | 0xD1#8 => fmt3 (.lvc p) r
  | 0xD2#8 => fmt3 (.lvh p) r
  | 0xD3#8 => fmt3 (.lvw p) r
  | 0xF0#8 => fmtTlb p r
  | 0xF3#8 => fmtCtrl (.rte p)
  | 0xF4#8 => fmtCtrl (.rti p)
  | 0xF5#8 => fmtBcd p r
  | 0xF8#8 => fmtCtrl (.memsb p)
  | 0xF9#8 => fmtCtrl (.memdb p)
  | 0xFA#8 => fmtCtrl (.cli p)
  | 0xFB#8 => fmtCtrl (.sei p)
  | _ => .unassigned p

/-- An ordinary instruction behind its predicate byte: the opcodes 00h to 3Fh hold an operand in their low
nibble (R123), the others are whole. -/
def decodeOrdinary (p : Pred) : List Byte → Decoded
  | [] => .truncated
  | op :: r =>
    match hiNibble op with
    | 0#4 => fmt1 (.tst p (loNibble op)) r
    | 1#4 => fmt2 (.cmp p (loNibble op)) r
    | 2#4 => fmt2 (.cmpi p (loNibble op)) r
    | 3#4 => fmt1 (fun d => .br p (loNibble op ++ d)) r
    | _ => decodeOpcode p op r

/-- What stands behind a prefix. -/
inductive ExtDecoded where
  | ext (e : Ext) (len : Nat)
  | reserved (r : Reserved)
  | truncated
  deriving DecidableEq, Repr

/-- Two, three and five operand bytes behind a prefix. -/
def ext2 (f : Byte → Byte → Ext) : List Byte → ExtDecoded
  | a :: b :: _ => .ext (f a b) 4
  | _ => .truncated

/-- Three operand bytes behind a prefix. -/
def ext3 (f : Byte → Byte → Byte → Ext) : List Byte → ExtDecoded
  | a :: b :: c :: _ => .ext (f a b c) 5
  | _ => .truncated

/-- JSR behind a prefix. -/
def extJsr (p : Pred) : List Byte → ExtDecoded
  | a :: b :: c :: d :: _ => .ext (.jsr p (loNibble a) (hiNibble a) (d ++ c ++ b)) 6
  | _ => .truncated

/-- CAS behind a prefix. -/
def extCas (p : Pred) : List Byte → ExtDecoded
  | a :: b :: c :: d :: e :: _ => .ext (.cas p a b c d e) 7
  | _ => .truncated

/-- The opcodes that accept a prefix (R119); any other makes a reserved sequence (log entry 16 for the
unassigned ones). -/
def decodeExtOpcode (p : Pred) (op : Byte) (r : List Byte) : ExtDecoded :=
  match op with
  | 0x48#8 => ext3 (.alu .addi p) r
  | 0x49#8 => ext3 (.alu .subi p) r
  | 0x4C#8 => ext3 (.alu .addui p) r
  | 0x4D#8 => ext3 (.alu .subui p) r
  | 0x53#8 => ext3 (.alu .andi p) r
  | 0x54#8 => ext3 (.alu .ori p) r
  | 0x55#8 => ext3 (.alu .eori p) r
  | 0x6B#8 => ext3 (.alu .addui2 p) r
  | 0x6C#8 => ext3 (.alu .addui4 p) r
  | 0x6D#8 => ext3 (.alu .addui8 p) r
  | 0x6E#8 => ext3 (.alu .addui16 p) r
  | 0x6F#8 => ext2 (.ldi p) r
  | 0x9D#8 => ext2 (.ldis p) r
  | 0x80#8 => ext3 (.load .lb p) r
  | 0x81#8 => ext3 (.load .lbu p) r
  | 0x82#8 => ext3 (.load .lc p) r
  | 0x83#8 => ext3 (.load .lcu p) r
  | 0x84#8 => ext3 (.load .lh p) r
  | 0x85#8 => ext3 (.load .lhu p) r
  | 0x86#8 => ext3 (.load .lw p) r
  | 0xD0#8 => ext3 (.load .lvb p) r
  | 0xD1#8 => ext3 (.load .lvc p) r
  | 0xD2#8 => ext3 (.load .lvh p) r
  | 0xD3#8 => ext3 (.load .lvw p) r
  | 0x8E#8 => ext3 (.lws p) r
  | 0x90#8 => ext3 (.store .sb p) r
  | 0x91#8 => ext3 (.store .sc p) r
  | 0x92#8 => ext3 (.store .sh p) r
  | 0x93#8 => ext3 (.store .sw p) r
  | 0x9E#8 => ext3 (.sws p) r
  | 0x97#8 => extCas p r
  | 0xA2#8 => extJsr p r
  | _ => .reserved .misplacedPrefix

/-- An extended ordinary instruction behind its own predicate byte. -/
def decodeExtOrdinary (p : Pred) : List Byte → ExtDecoded
  | [] => .truncated
  | op :: r =>
    match hiNibble op with
    | 2#4 => ext2 (.cmpi p (loNibble op)) r
    | _ => decodeExtOpcode p op r

/-- The instruction behind a prefix: an ordinary one that accepts it (R116, R119, R143). -/
def decodeExt : List Byte → ExtDecoded
  | [] => .truncated
  | b :: r =>
    match lead b with
    | .ordinary p => decodeExtOrdinary p r
    | .reserved e => .reserved e
    | .brk | .nop | .rtsShort | .prefixed _ => .reserved .misplacedPrefix

/-- Puts a prefix of `n` bytes before what stands behind it. -/
def withPrefix (n : Nat) (f : Ext → Instr) : ExtDecoded → Decoded
  | .ext e len => .instr (f e) (n + len)
  | .reserved r => .reserved r
  | .truncated => .truncated

/-- A prefix of `n` bytes: `n - 1` immediate bytes, low first, then the extended instruction (R114, R116). -/
def decodePrefixed (n : Nat) (r : List Byte) : Decoded :=
  match n, r with
  | 2, a :: r => withPrefix 2 (.imm16 a) (decodeExt r)
  | 3, a :: b :: r => withPrefix 3 (.imm24 (b ++ a)) (decodeExt r)
  | 4, a :: b :: c :: r => withPrefix 4 (.imm32 (c ++ b ++ a)) (decodeExt r)
  | 5, a :: b :: c :: d :: r => withPrefix 5 (.imm40 (d ++ c ++ b ++ a)) (decodeExt r)
  | 6, a :: b :: c :: d :: e :: r => withPrefix 6 (.imm48 (e ++ d ++ c ++ b ++ a)) (decodeExt r)
  | 7, a :: b :: c :: d :: e :: f :: r => withPrefix 7 (.imm56 (f ++ e ++ d ++ c ++ b ++ a)) (decodeExt r)
  | 8, a :: b :: c :: d :: e :: f :: g :: r =>
    withPrefix 8 (.imm64 (g ++ f ++ e ++ d ++ c ++ b ++ a)) (decodeExt r)
  | _, _ => .truncated

/-- The decoder (R111 to R116). -/
def decode : List Byte → Decoded
  | [] => .truncated
  | b :: r =>
    match lead b with
    | .brk => .instr .brk 1
    | .nop => .instr .nop 1
    | .rtsShort => .instr .rtsShort 1
    | .prefixed n => decodePrefixed n r
    | .ordinary p => decodeOrdinary p r
    | .reserved e => .reserved e

/-! ### The encoder -/

/-- The predicate byte (R110). -/
def Pred.byte (p : Pred) : Byte := p.pn ++ p.cond.code

/-- The bytes of a 24-bit offset, low byte first (R115, JSR). -/
def bytes24 (v : BitVec 24) : List Byte :=
  [v.extractLsb' 0 8, v.extractLsb' 8 8, v.extractLsb' 16 8]

/-- The opcodes of R124. -/
def ImmOp.opcode : ImmOp → Byte
  | .addi => 0x48 | .subi => 0x49 | .addui => 0x4C | .subui => 0x4D
  | .andi => 0x53 | .ori => 0x54 | .eori => 0x55
  | .addui2 => 0x6B | .addui4 => 0x6C | .addui8 => 0x6D | .addui16 => 0x6E

/-- The opcodes of R125 and R126. -/
def LoadOp.opcode : LoadOp → Byte
  | .lb => 0x80 | .lbu => 0x81 | .lc => 0x82 | .lcu => 0x83 | .lh => 0x84 | .lhu => 0x85 | .lw => 0x86
  | .lvb => 0xD0 | .lvc => 0xD1 | .lvh => 0xD2 | .lvw => 0xD3

/-- The opcodes of R125. -/
def StoreOp.opcode : StoreOp → Byte
  | .sb => 0x90 | .sc => 0x91 | .sh => 0x92 | .sw => 0x93

/-- JSR-shaped bytes behind the predicate byte (R115). -/
def jsrBytes (brt br : BReg) (off : BitVec 24) : List Byte :=
  0xA2#8 :: (br ++ brt) :: bytes24 off

/-- The bytes of an extended instruction, its own predicate byte first. -/
def Ext.encode : Ext → List Byte
  | .alu op p ra rt imm => [p.byte, op.opcode, ra, rt, imm]
  | .cmpi p pt ra imm => [p.byte, 2#4 ++ pt, ra, imm]
  | .ldi p rt imm => [p.byte, 0x6F, rt, imm]
  | .ldis p spr imm => [p.byte, 0x9D, spr, imm]
  | .load op p ra rt off => [p.byte, op.opcode, ra, rt, off]
  | .lws p ra spr off => [p.byte, 0x8E, ra, spr, off]
  | .store op p ra rs off => [p.byte, op.opcode, ra, rs, off]
  | .sws p ra spr off => [p.byte, 0x9E, ra, spr, off]
  | .cas p ra rb rc rt off => [p.byte, 0x97, ra, rb, rc, rt, off]
  | .jsr p brt br off => p.byte :: jsrBytes brt br off

/-- Bitfield bytes (R115, R197). -/
def bfBytes (func : BitVec 4) (p : Pred) (ra rt : Reg) (mb me : BitVec 6) : List Byte :=
  [p.byte, 0xAA, ra, rt, me.extractLsb' 0 2 ++ mb, func ++ me.extractLsb' 2 4]

/-- TLB bytes (R115, R350). -/
def tlbBytes (cmd : BitVec 4) (p : Pred) (tn : BitVec 4) (r : Reg) : List Byte :=
  [p.byte, 0xF0, tn ++ cmd, r]

/-- The byte of bits `8k+7 .. 8k`. -/
def byteAt {w : Nat} (v : BitVec w) (k : Nat) : Byte := v.extractLsb' (8 * k) 8

/-- The encoder: the bytes of an instruction in address order (R13, R114, R115, R123 to R127). -/
def encode : Instr → List Byte
  | .brk => [0x00]
  | .nop => [0x10]
  | .rtsShort => [0x11]
  | .imm16 k e => 0x20#8 :: k :: e.encode
  | .imm24 k e => 0x30#8 :: byteAt k 0 :: byteAt k 1 :: e.encode
  | .imm32 k e => 0x40#8 :: byteAt k 0 :: byteAt k 1 :: byteAt k 2 :: e.encode
  | .imm40 k e => 0x50#8 :: byteAt k 0 :: byteAt k 1 :: byteAt k 2 :: byteAt k 3 :: e.encode
  | .imm48 k e => 0x60#8 :: byteAt k 0 :: byteAt k 1 :: byteAt k 2 :: byteAt k 3 :: byteAt k 4 :: e.encode
  | .imm56 k e =>
    0x70#8 :: byteAt k 0 :: byteAt k 1 :: byteAt k 2 :: byteAt k 3 :: byteAt k 4 :: byteAt k 5 :: e.encode
  | .imm64 k e =>
    0x80#8 :: byteAt k 0 :: byteAt k 1 :: byteAt k 2 :: byteAt k 3 :: byteAt k 4 :: byteAt k 5 :: byteAt k 6 ::
      e.encode
  | .tst p pt ra => [p.byte, 0#4 ++ pt, ra]
  | .cmp p pt ra rb => [p.byte, 1#4 ++ pt, ra, rb]
  | .cmpi p pt ra imm => [p.byte, 2#4 ++ pt, ra, imm]
  | .br p disp => [p.byte, 3#4 ++ disp.extractLsb' 8 4, disp.extractLsb' 0 8]
  | .add p ra rb rt => [p.byte, 0x40, ra, rb, rt]
  | .sub p ra rb rt => [p.byte, 0x41, ra, rb, rt]
  | .addu p ra rb rt => [p.byte, 0x44, ra, rb, rt]
  | .subu p ra rb rt => [p.byte, 0x45, ra, rb, rt]
  | .and p ra rb rt => [p.byte, 0x50, ra, rb, rt]
  | .or p ra rb rt => [p.byte, 0x51, ra, rb, rt]
  | .eor p ra rb rt => [p.byte, 0x52, ra, rb, rt]
  | .addu2 p ra rb rt => [p.byte, 0x56, ra, rb, rt]
  | .addu4 p ra rb rt => [p.byte, 0x57, ra, rb, rt]
  | .addu8 p ra rb rt => [p.byte, 0x64, ra, rb, rt]
  | .addu16 p ra rb rt => [p.byte, 0x65, ra, rb, rt]
  | .addi p ra rt imm => [p.byte, 0x48, ra, rt, imm]
  | .subi p ra rt imm => [p.byte, 0x49, ra, rt, imm]
  | .addui p ra rt imm => [p.byte, 0x4C, ra, rt, imm]
  | .subui p ra rt imm => [p.byte, 0x4D, ra, rt, imm]
  | .andi p ra rt imm => [p.byte, 0x53, ra, rt, imm]
  | .ori p ra rt imm => [p.byte, 0x54, ra, rt, imm]
  | .eori p ra rt imm => [p.byte, 0x55, ra, rt, imm]
  | .addui2 p ra rt imm => [p.byte, 0x6B, ra, rt, imm]
  | .addui4 p ra rt imm => [p.byte, 0x6C, ra, rt, imm]
  | .addui8 p ra rt imm => [p.byte, 0x6D, ra, rt, imm]
  | .addui16 p ra rt imm => [p.byte, 0x6E, ra, rt, imm]
  | .lea p ra rt off => [p.byte, 0x4C, ra, rt, off]
  | .ldi p rt imm => [p.byte, 0x6F, rt, imm]
  | .ldit8 p rt imm => [p.byte, 0x9C, rt, imm]
  | .ldis p spr imm => [p.byte, 0x9D, spr, imm]
  | .neg p ra rt => [p.byte, 0x70, ra, rt]
  | .mov p ra rt => [p.byte, 0xA7, ra, rt]
  | .mfspr p spr rt => [p.byte, 0xA8, spr, rt]
  | .mtspr p ra spr => [p.byte, 0xA9, ra, spr]
  | .movs p spra sprt => [p.byte, 0xAB, spra, sprt]
  | .stsb p ra rb => [p.byte, 0x98, ra, rb]
  | .stsw p ra rb => [p.byte, 0x9A, ra, rb]
  | .mux p ra rb rc rt => [p.byte, 0x72, ra, rb, rc, rt]
  | .lb p ra rt off => [p.byte, 0x80, ra, rt, off]
  | .lbu p ra rt off => [p.byte, 0x81, ra, rt, off]
  | .lc p ra rt off => [p.byte, 0x82, ra, rt, off]
  | .lcu p ra rt off => [p.byte, 0x83, ra, rt, off]
  | .lh p ra rt off => [p.byte, 0x84, ra, rt, off]
  | .lhu p ra rt off => [p.byte, 0x85, ra, rt, off]
  | .lw p ra rt off => [p.byte, 0x86, ra, rt, off]
  | .lws p ra spr off => [p.byte, 0x8E, ra, spr, off]
  | .sb p ra rs off => [p.byte, 0x90, ra, rs, off]
  | .sc p ra rs off => [p.byte, 0x91, ra, rs, off]
  | .sh p ra rs off => [p.byte, 0x92, ra, rs, off]
  | .sw p ra rs off => [p.byte, 0x93, ra, rs, off]
  | .sws p ra spr off => [p.byte, 0x9E, ra, spr, off]
  | .sti p ra imm off => [p.byte, 0x96, ra, imm, off]
  | .cas p ra rb rc rt off => [p.byte, 0x97, ra, rb, rc, rt, off]
  | .lvb p ra rt off => [p.byte, 0xD0, ra, rt, off]
  | .lvc p ra rt off => [p.byte, 0xD1, ra, rt, off]
  | .lvh p ra rt off => [p.byte, 0xD2, ra, rt, off]
  | .lvw p ra rt off => [p.byte, 0xD3, ra, rt, off]
  | .lbx p ra rb rt => [p.byte, 0xB0, ra, rb, rt]
  | .lbux p ra rb rt => [p.byte, 0xB1, ra, rb, rt]
  | .lcx p ra rb rt => [p.byte, 0xB2, ra, rb, rt]
  | .lcux p ra rb rt => [p.byte, 0xB3, ra, rb, rt]
  | .lhx p ra rb rt => [p.byte, 0xB4, ra, rb, rt]
  | .lhux p ra rb rt => [p.byte, 0xB5, ra, rb, rt]
  | .lwx p ra rb rt => [p.byte, 0xB6, ra, rb, rt]
  | .sbx p ra rb rs => [p.byte, 0xC0, ra, rb, rs]
  | .scx p ra rb rs => [p.byte, 0xC1, ra, rb, rs]
  | .shx p ra rb rs => [p.byte, 0xC2, ra, rb, rs]
  | .swx p ra rb rs => [p.byte, 0xC3, ra, rb, rs]
  | .jsr p brt br off => p.byte :: jsrBytes brt br off
  | .bsr p brt off => p.byte :: jsrBytes brt 15#4 off
  | .jmp p br off => p.byte :: jsrBytes 0#4 br off
  | .rts p im br => [p.byte, 0xA3, br ++ im]
  | .loop p disp => [p.byte, 0xA4, disp]
  | .sys p vec => [p.byte, 0xA5, 0xCD, vec]
  | .int p vec => [p.byte, 0xA6, 0xCE, vec]
  | .bfins p ra rt mb me => bfBytes 0 p ra rt mb me
  | .bfset p ra rt mb me => bfBytes 1 p ra rt mb me
  | .bfclr p ra rt mb me => bfBytes 2 p ra rt mb me
  | .bfchg p ra rt mb me => bfBytes 3 p ra rt mb me
  | .bfextu p ra rt mb me => bfBytes 4 p ra rt mb me
  | .bfext p ra rt mb me => bfBytes 5 p ra rt mb me
  | .tlbnop p tn r => tlbBytes 0 p tn r
  | .tlbpb p tn r => tlbBytes 1 p tn r
  | .tlbrd p tn r => tlbBytes 2 p tn r
  | .tlbwr p tn r => tlbBytes 3 p tn r
  | .tlbwi p tn r => tlbBytes 4 p tn r
  | .tlben p tn r => tlbBytes 5 p tn r
  | .tlbdis p tn r => tlbBytes 6 p tn r
  | .tlbrdreg p tn r => tlbBytes 7 p tn r
  | .tlbwrreg p tn r => tlbBytes 8 p tn r
  | .rte p => [p.byte, 0xF3]
  | .rti p => [p.byte, 0xF4]
  | .memsb p => [p.byte, 0xF8]
  | .memdb p => [p.byte, 0xF9]
  | .cli p => [p.byte, 0xFA]
  | .sei p => [p.byte, 0xFB]
  | .bcdadd p ra rb rt => [p.byte, 0xF5, ra, rb, rt, 0]
  | .bcdsub p ra rb rt => [p.byte, 0xF5, ra, rb, rt, 1]
  | .bcdmul p ra rb rt => [p.byte, 0xF5, ra, rb, rt, 2]

/-- The instruction the decoder answers for the words of `i`: LEA's words are ADDUI's, and the JSR words are
BSR's when br = 15, else JMP's when brt = 0 (R146; log entry 27). -/
def Instr.canonical : Instr → Instr
  | .lea p ra rt off => .addui p ra rt off
  | .jsr p link base off => jsrRow p link base off
  | .jmp p base off => jsrRow p 0#4 base off
  | i => i

/-- The number of bytes a decoder ever needs: an IMM64 prefix and a CAS (R113). -/
def maxBytes : Nat := 15

/-- The bytes of the number `w`, byte 0 the least significant (R13): `n` of them. -/
def bytesOfNat : Nat → Nat → List Byte
  | 0, _ => []
  | n + 1, w => BitVec.ofNat 8 w :: bytesOfNat n (w / 256)

/-- The instruction the decoder reads from the `nbits` low bits of `w`, the bits above them 0. -/
def decodeTableWord (nbits w : Nat) : Option Instr :=
  match decode (bytesOfNat maxBytes (w % 2 ^ nbits)) with
  | .instr i _ => some i
  | _ => none

end Sys2Proof
end

