-- ==== Sys2Proof/Machine/Fetch.lean ====
section
/-!
DEFINITION. Instruction fetch (20_memory.md R99, R101; 30_encoding.md R140, R141; 60_exceptions.md R390).
-/

namespace Sys2Proof.Machine

/-- The bytes that an unsynchronised fetch may still see at a physical address (R99; log entry 19). -/
def staleBytes (log : List Host.Cell) (a : Nat) : List Byte :=
  match log with
  | [] => []
  | c :: r => if c.1 = a then c.2 :: staleBytes r a else staleBytes r a

/-- The byte a fetch finds at a physical address of memory: the byte in memory, or freely one that a store replaced and
no MEMSB with a control transfer has settled since (R99; log entry 19). -/
def State.codeByte (s : State) (pa : Word) : Byte :=
  match s.kindAt pa with
  | .device => Config.deviceCode s.now pa.toNat
  | .memory | .absent =>
    let now := Memory.read s.mem pa.toNat
    match staleBytes (s.lag.overwritten ++ s.lag.drained) pa.toNat with
    | [] => now
    | old => (now :: old).getD (Config.staleChoice s.now pa.toNat % (old.length + 1)) now

/-- Why a fetch stops at a byte. -/
inductive FetchStop where
  /-- an exception, with the state to take it in -/
  | trap (vector : BitVec 8) (s : State)
  | fault (r : Fault)
  deriving DecidableEq, Repr

/-- Fetches one byte at a virtual code address: translation, then bus error (R101; 60_exceptions.md R390). -/
def State.fetchByte (s : State) (a : Word) : Except FetchStop Byte :=
  match s.lookup (s.codeAddress a) with
  | .miss => .error (.trap vecItlbMiss (s.recordCodeMiss (s.codeAddress a)))
  | .multiple => .error (.fault .tlbMultipleMatch)
  | .hit pa _ => if s.codeFails pa then .error (.trap vecBusFetch s) else .ok (s.codeByte pa)

/-- Fetches up to `n` bytes from an address on: those before the first that stops, and why it stops. -/
def State.fetchBytes (s : State) (a : Word) (n : Nat) : List Byte × Option FetchStop :=
  match n with
  | 0 => ([], none)
  | k + 1 =>
    match s.fetchByte a with
    | .error e => ([], some e)
    | .ok b => (b :: (s.fetchBytes (a + 1) k).1, (s.fetchBytes (a + 1) k).2)

/-- What the fetch at the pc gives: an instruction, or the end of the step. -/
inductive Fetched where
  | run (i : Instr)
  | stop (o : Out)

/-- The end of a step whose fetch stopped (60_exceptions.md R377). -/
def State.stopFetch (s : State) : Option FetchStop → Out
  | some (.trap v t) => .next (t.enter .exception v s.pc)
  | some (.fault r) => .fault r
  | none => .refused .tooLong

/-- Fetches and decodes at the pc. A byte behind the instruction is not asked for, so it raises nothing. An unassigned
opcode raises exception 250 when its predicate holds (R140) and is refused when it does not (R141; log entry 17). -/
def State.fetch (s : State) : Fetched :=
  match decode (s.fetchBytes s.pc maxBytes).1 with
  | .instr i _ => .run i
  | .unassigned p =>
    if s.holds p then .stop (.next (s.enter .exception vecUnimplemented s.pc)) else .stop (.refused .unassignedSkipped)
  | .reserved r => .stop (.refused (.reserved r))
  | .truncated => .stop (s.stopFetch (s.fetchBytes s.pc maxBytes).2)

/-! ### Placing an instruction (what `State.withFetchWord` needs) -/

/-- Drops the rows of a physical address from a log. -/
def forget (log : List Host.Cell) (a : Nat) : List Host.Cell := log.filter fun c => c.1 != a

/-- Puts one byte where a fetch at a virtual code address finds it, if the address translates. -/
def State.placeByte (s : State) (a : Word) (b : Byte) : State :=
  match s.lookup (s.codeAddress a) with
  | .hit pa _ =>
    { s with
      mem := Memory.write s.mem pa.toNat b
      lag := { overwritten := forget s.lag.overwritten pa.toNat, drained := forget s.lag.drained pa.toNat } }
  | .miss | .multiple => s

/-- Puts bytes at rising virtual code addresses. -/
def State.placeBytes (s : State) (a : Word) (bs : List Byte) : State :=
  match bs with
  | [] => s
  | b :: r => (s.placeByte a b).placeBytes (a + 1) r

/-- The next step's inputs with no reset, no interrupt and no failing fetch. -/
def quietNext : List Pins → List Pins
  | [] => []
  | p :: r => { p with rst := false, nmi := false, irq := false, fetchErr := [] } :: r

end Sys2Proof.Machine
end

