-- ==== Sys2Proof/Machine/Interrupt.lean ====
section
/-!
DEFINITION. What happens at an instruction boundary before the fetch: the inputs of the step, reset by `rst_i`, NMI and
IRQ (60_exceptions.md R383 to R390, 70_reset_and_hazards.md R420, R421).
-/

namespace Sys2Proof.Machine

/-- The inputs of a step: the schedule's head; when it is spent, nothing asserted, no `err_i` beyond the memory map's and a
free external signal (R112, R385; log entries 4 and 30). -/
def nextPins (now : Nat) : List Pins → Pins
  | [] => { Pins.low with psig := Config.externalSignal now }
  | p :: _ => p

/-- Takes the inputs of a step: pins and `err_i`, TICK (R44, R402) and the step counter (log entries 4, 5, 21, 30). -/
def State.sample (s : State) : State :=
  { s with
    pins := nextPins s.now s.schedule
    schedule := s.schedule.tail
    tick := s.tick + Config.tickAdvance s.now
    now := s.now + 1 }

/-- A free TLB entry after `rst_i` (R421; log entry 20). -/
def freeEntry (now i : Nat) : TlbEntry :=
  { c := (Config.afterReset now (1000 + 8 * i)).setWidth 3
    g := (Config.afterReset now (1001 + 8 * i)).getLsbD 0
    d := (Config.afterReset now (1002 + 8 * i)).getLsbD 0
    v := (Config.afterReset now (1003 + 8 * i)).getLsbD 0
    asid := (Config.afterReset now (1004 + 8 * i)).setWidth 8
    vpn := (Config.afterReset now (1005 + 8 * i)).setWidth 52
    ppn := (Config.afterReset now (1006 + 8 * i)).setWidth 52 }

/-- Free TLB registers after `rst_i`; the page size is one of the five that are defined (R421; log entry 20). -/
def freeTlbRegs (now : Nat) : TlbRegs :=
  { wired := (Config.afterReset now 600).setWidth 4
    index := Config.afterReset now 601
    pageSize := BitVec.ofNat 3 ((Config.afterReset now 602).toNat % 5)
    virtPage := Config.afterReset now 603
    physPage := Config.afterReset now 604
    asid := { asid := (Config.afterReset now 605).setWidth 8, c := (Config.afterReset now 606).setWidth 3,
              g := (Config.afterReset now 607).getLsbD 0, d := (Config.afterReset now 608).getLsbD 0,
              v := (Config.afterReset now 609).getLsbD 0 }
    dma := Config.afterReset now 610
    ima := Config.afterReset now 611
    pta := Config.afterReset now 612
    ptc := Config.afterReset now 613 }

/-- Reset by `rst_i`: pc, IM, S, FXE and `tlb_enabled` as R421 says; EPC, IPC and the SR backup are not written (R420);
memory is not affected; everything else R421 leaves unspecified is free (log entry 20). -/
def State.warmReset (s : State) : State :=
  { s with
    x := Vector.ofFn fun i : Fin 256 => if i.val = 0 then 0 else Config.afterReset s.now i.val
    br := Vector.ofFn fun i : Fin 16 =>
      if i.val = 0 ∨ i.val = 15 then 0
      else if i.val = 13 ∨ i.val = 14 then s.br[i.val]'i.isLt
      else Config.afterReset s.now (300 + i.val)
    pc := resetVector
    p := Vector.ofFn fun i : Fin 16 => (Config.afterReset s.now (320 + i.val)).setWidth 4
    sr := s.statusBackup ++ resetStatus
    lc := Config.afterReset s.now 340
    asid := (Config.afterReset s.now 341).setWidth 8
    seg := Vector.ofFn fun i : Fin 16 => Config.afterReset s.now (360 + i.val)
    tlb := Vector.ofFn fun i : Fin 64 => freeEntry s.now i.val
    tlbEnabled := false
    tlbRegs := freeTlbRegs s.now
    tick := Config.afterReset s.now 342 }

/-- What a boundary leads to. -/
inductive Boundary where
  /-- reset or an interrupt was taken in place of the next instruction -/
  | taken (s : State)
  /-- the next instruction runs in this state -/
  | go (s : State)
  deriving DecidableEq, Repr

/-- The boundary: reset, then NMI on its rising edge, then IRQ unless masked (60_exceptions.md R384, R385, R390). The
return address of an interrupt is the pc of the instruction that did not run (R377). -/
def State.boundary (s : State) : Boundary :=
  let t := s.sample
  if t.pins.rst then .taken t.warmReset
  else if t.pins.nmi && !s.pins.nmi then .taken (t.enter .interrupt vecNmi t.pc)
  else if t.pins.irq && !t.im then .taken (t.enter .interrupt t.pins.vec t.pc)
  else .go t

end Sys2Proof.Machine
end

