-- ==== Sys2Proof/Machine/Step.lean ====
section
/-!
DEFINITION. One step: the boundary, then fetch and decode, then the instruction.
-/

namespace Sys2Proof.Machine

/-- One step of the machine (60_exceptions.md R390). -/
def step (s : State) : Host.Outcome State Fault Refusal :=
  match s.boundary with
  | .taken t => .next t
  | .go t =>
    match t.fetch with
    | .run i => exec i t
    | .stop o => o

/-- The state with the instruction word `w` stored where the next step fetches, and no reset, interrupt or failing fetch
at that step: it stands for a program loaded from outside the machine (log entry 26). -/
def State.withFetchWord (s : State) (nbits w : Nat) : State :=
  { s.placeBytes s.pc (bytesOfNat maxBytes (w % 2 ^ nbits)) with schedule := quietNext s.schedule }

end Sys2Proof.Machine
end

