-- ==== Sys2Proof/Safety.lean ====
section
/-!
DEFINITION. The terms the claims use: the invariant of the machine, what an instruction leaves unchanged, and the
classes of instructions that touch memory, registers or special registers.
-/

namespace Sys2Proof.Machine

/-! ### Invariants of every step -/

/-- What every reset state has and every step keeps: memory in canonical form, the cells of the hard-wired registers at
0 (10_state.md R20, R25, R26), the reserved bits of SR at 0 (R40), a defined page size (R60). -/
structure State.Inv (s : State) : Prop where
  memory   : Memory.wf s.mem = true
  x0       : s.x[0] = 0
  br0      : s.br[0] = 0
  br15     : s.br[15] = 0
  reserved : s.sr &&& 0x4FFF4FFF#32 = 0
  pageSize : s.tlbRegs.pageSize.toNat ≤ 4

/-- Kernel mode in force and in the backup half (60_exceptions.md R397). -/
def State.KernelLatched (s : State) : Prop := s.sr.getLsbD 13 = true ∧ s.sr.getLsbD 29 = true

/-- FXE clear in force and in the backup half (10_state.md R38). -/
def State.FxeClear (s : State) : Prop := s.sr.getLsbD 12 = false ∧ s.sr.getLsbD 28 = false

/-- A step that the machine survives: it neither faults nor is refused. -/
def Safe (o : Out) : Prop := ∃ t, o = .next t

/-- No reset and no interrupt comes at the next boundary (60_exceptions.md R384, R385, R390). -/
def State.Quiet (s : State) : Prop :=
  (nextPins s.now s.schedule).rst = false ∧
  ((nextPins s.now s.schedule).nmi = true → s.pins.nmi = true) ∧
  ((nextPins s.now s.schedule).irq = true → s.im = true)

/-! ### Frames -/

/-- Every byte of memory reads the same. -/
def SameMemory (s t : State) : Prop := ∀ a : Nat, Memory.read t.mem a = Memory.read s.mem a

/-- `i` completes: it leaves `v` in general register `rt` (nothing in register 0) and goes on `len` bytes further.
Every other register, every flag, SR, every special and TLB register and all of memory keep their values. -/
def WritesX (i : Instr) (s : State) (rt : Reg) (v : Word) (len : Nat) : Prop :=
  ∃ t, exec i s = .next t ∧
    (∀ r : Reg, t.getX r = if r = rt ∧ r ≠ 0 then v else s.getX r) ∧
    t.pc = s.pc + BitVec.ofNat 64 len ∧
    t = { s with x := t.x, pc := t.pc } ∧
    SameMemory s t

/-- `i` completes: it leaves `f` in predicate register `pt` and goes on `len` bytes further; all else keeps its value. -/
def WritesP (i : Instr) (s : State) (pt : PReg) (f : BitVec 4) (len : Nat) : Prop :=
  ∃ t, exec i s = .next t ∧
    (∀ r : PReg, t.getP r = if r = pt then f else s.getP r) ∧
    t.pc = s.pc + BitVec.ofNat 64 len ∧
    t = { s with p := t.p, pc := t.pc } ∧
    SameMemory s t

/-- `i` completes with only the pc changed, to `target`, by a control transfer (which ends the wait of bytes behind a
MEMSB: the model's own field `lag`). -/
def JumpsTo (i : Instr) (s : State) (target : Word) : Prop :=
  ∃ t, exec i s = .next t ∧
    t = { s with pc := target, lag := { s.lag with drained := [] } } ∧
    SameMemory s t

/-- `t` is `s` after a special purpose register write of `v` to number `n` (45_system.md R341), `len` bytes further: the
read-only and unassigned numbers change nothing. -/
def SprWritten (s t : State) (n : SprNum) (v : Word) (len : Nat) : Prop :=
  t.lc = (if n = 3 then v else s.lc) ∧
  (∀ r : PReg, t.getP r = if n = 4 then v.extractLsb' (4 * r.toNat) 4 else s.getP r) ∧
  t.asid = (if n = 6 then v.extractLsb' 0 8 else s.asid) ∧
  (∀ r : BReg, r ≠ 15 → t.getBr r = if n.toNat = 16 + r.toNat ∧ r ≠ 0 then v else s.getBr r) ∧
  (∀ r : BitVec 4, t.getSeg r = if n.toNat = 32 + r.toNat then v else s.getSeg r) ∧
  t.pc = s.pc + BitVec.ofNat 64 len ∧
  t = { s with lc := t.lc, p := t.p, asid := t.asid, br := t.br, seg := t.seg, pc := t.pc } ∧
  SameMemory s t

/-- `t` is `s` after a trap (60_exceptions.md R376): return address in branch register `link`, old status in the backup
half, S and IM set, pc at the vector; nothing else changed. -/
def TrapFrom (s t : State) (link : BReg) (v : BitVec 8) (ret : Word) : Prop :=
  (∀ r : BReg, r ≠ 15 → t.getBr r = if r = link then ret else s.getBr r) ∧
  t.sr.extractLsb' 16 16 = s.sr.extractLsb' 0 16 ∧
  (∀ k < 16, t.sr.getLsbD k = (s.sr.getLsbD k || decide (k = 15) || decide (k = 13))) ∧
  t.pc = s.getBr 12 + 16 * v.setWidth 64 ∧
  t = { s with br := t.br, sr := t.sr, pc := t.pc } ∧
  SameMemory s t

/-! ### Instructions behind a prefix -/

/-- The parts of a prefixed instruction: the prefix's length, the 64-bit immediate, the instruction extended. -/
def prefixParts : Instr → Option (Nat × Word × Ext)
  | .imm16 k e => some (2, immPrefixed k (extField e), e)
  | .imm24 k e => some (3, immPrefixed k (extField e), e)
  | .imm32 k e => some (4, immPrefixed k (extField e), e)
  | .imm40 k e => some (5, immPrefixed k (extField e), e)
  | .imm48 k e => some (6, immPrefixed k (extField e), e)
  | .imm56 k e => some (7, immPrefixed k (extField e), e)
  | .imm64 k e => some (8, immPrefixed k (extField e), e)
  | _ => none

/-! ### Data accesses -/

/-- A load into a general register: from `bytes` bytes at `address`, sign- or zero-extended, into `target`. -/
structure LoadForm where
  pred    : Pred
  address : Word
  bytes   : Nat
  signed  : Bool
  target  : Reg
  length  : Nat

/-- The loads into a general register, prefixed ones included (44_load_store.md R262 to R283). -/
def loadForm (s : State) : Instr → Option LoadForm
  | .lb p ra rt off   => some ⟨p, s.eaDisp ra (imm8 off), 1, true, rt, 5⟩
  | .lbu p ra rt off  => some ⟨p, s.eaDisp ra (imm8 off), 1, false, rt, 5⟩
  | .lc p ra rt off   => some ⟨p, s.eaDisp ra (imm8 off), 2, true, rt, 5⟩
  | .lcu p ra rt off  => some ⟨p, s.eaDisp ra (imm8 off), 2, false, rt, 5⟩
  | .lh p ra rt off   => some ⟨p, s.eaDisp ra (imm8 off), 4, true, rt, 5⟩
  | .lhu p ra rt off  => some ⟨p, s.eaDisp ra (imm8 off), 4, false, rt, 5⟩
  | .lw p ra rt off   => some ⟨p, s.eaDisp ra (imm8 off), 8, true, rt, 5⟩
  | .lvb p ra rt off  => some ⟨p, s.eaDisp ra (imm8 off), 1, true, rt, 5⟩
  | .lvc p ra rt off  => some ⟨p, s.eaDisp ra (imm8 off), 2, true, rt, 5⟩
  | .lvh p ra rt off  => some ⟨p, s.eaDisp ra (imm8 off), 4, true, rt, 5⟩
  | .lvw p ra rt off  => some ⟨p, s.eaDisp ra (imm8 off), 8, true, rt, 5⟩
  | .lbx p ra rb rt   => some ⟨p, s.eaIndex ra rb, 1, true, rt, 5⟩
  | .lbux p ra rb rt  => some ⟨p, s.eaIndex ra rb, 1, false, rt, 5⟩
  | .lcx p ra rb rt   => some ⟨p, s.eaIndex ra rb, 2, true, rt, 5⟩
  | .lcux p ra rb rt  => some ⟨p, s.eaIndex ra rb, 2, false, rt, 5⟩
  | .lhx p ra rb rt   => some ⟨p, s.eaIndex ra rb, 4, true, rt, 5⟩
  | .lhux p ra rb rt  => some ⟨p, s.eaIndex ra rb, 4, false, rt, 5⟩
  | .lwx p ra rb rt   => some ⟨p, s.eaIndex ra rb, 8, true, rt, 5⟩
  | i =>
    match prefixParts i with
    | some (n, imm, .load op p ra rt _) =>
      some ⟨p, s.eaDisp ra imm, (loadKind op).bytes, (loadKind op).signed, rt, n + 5⟩
    | _ => none

/-- A store of the low `bytes` bytes of `data` at `address`. -/
structure StoreForm where
  pred    : Pred
  address : Word
  bytes   : Nat
  data    : Word
  length  : Nat

/-- The stores of one element, prefixed ones included (44_load_store.md R285 to R294). -/
def storeForm (s : State) : Instr → Option StoreForm
  | .sb p ra rs off   => some ⟨p, s.eaDisp ra (imm8 off), 1, s.getX rs, 5⟩
  | .sc p ra rs off   => some ⟨p, s.eaDisp ra (imm8 off), 2, s.getX rs, 5⟩
  | .sh p ra rs off   => some ⟨p, s.eaDisp ra (imm8 off), 4, s.getX rs, 5⟩
  | .sw p ra rs off   => some ⟨p, s.eaDisp ra (imm8 off), 8, s.getX rs, 5⟩
  | .sti p ra imm off => some ⟨p, s.eaDisp ra (imm8 off), 8, imm.setWidth 64, 5⟩
  | .sws p ra spr off => some ⟨p, s.eaDisp ra (imm8 off), 8, s.sprRead spr, 5⟩
  | .sbx p ra rb rs   => some ⟨p, s.eaIndex ra rb, 1, s.getX rs, 5⟩
  | .scx p ra rb rs   => some ⟨p, s.eaIndex ra rb, 2, s.getX rs, 5⟩
  | .shx p ra rb rs   => some ⟨p, s.eaIndex ra rb, 4, s.getX rs, 5⟩
  | .swx p ra rb rs   => some ⟨p, s.eaIndex ra rb, 8, s.getX rs, 5⟩
  | i =>
    match prefixParts i with
    | some (n, imm, .store op p ra rs _) => some ⟨p, s.eaDisp ra imm, storeBytes op, s.getX rs, n + 5⟩
    | some (n, imm, .sws p ra spr _) => some ⟨p, s.eaDisp ra imm, 8, s.sprRead spr, n + 5⟩
    | _ => none

/-- LWS, prefixed or not: a word at `address` into special register `spr` (44_load_store.md R269). -/
structure LwsForm where
  pred    : Pred
  address : Word
  spr     : SprNum
  length  : Nat

/-- LWS, prefixed or not. -/
def lwsForm (s : State) : Instr → Option LwsForm
  | .lws p ra spr off => some ⟨p, s.eaDisp ra (imm8 off), spr, 5⟩
  | i =>
    match prefixParts i with
    | some (n, imm, .lws p ra spr _) => some ⟨p, s.eaDisp ra imm, spr, n + 5⟩
    | _ => none

/-- CAS, prefixed or not: the word at `address` against `expected`, replaced by `new` (44_load_store.md R306). -/
structure CasForm where
  pred     : Pred
  address  : Word
  expected : Word
  new      : Word
  target   : Reg
  length   : Nat

/-- CAS, prefixed or not. -/
def casForm (s : State) : Instr → Option CasForm
  | .cas p ra rb rc rt off => some ⟨p, s.eaDisp ra (imm8 off), s.getX rb, s.getX rc, rt, 7⟩
  | i =>
    match prefixParts i with
    | some (n, imm, .cas p ra rb rc rt _) => some ⟨p, s.eaDisp ra imm, s.getX rb, s.getX rc, rt, n + 7⟩
    | _ => none

/-- One data access: whether it is a write, where and how wide. -/
structure DataAccess where
  pred    : Pred
  write   : Bool
  address : Word
  bytes   : Nat

/-- The single data access of an instruction that makes one; CAS translates as a write (D47). -/
def dataAccess (s : State) (i : Instr) : Option DataAccess :=
  match loadForm s i, storeForm s i, lwsForm s i, casForm s i with
  | some f, _, _, _ => some ⟨f.pred, false, f.address, f.bytes⟩
  | _, some f, _, _ => some ⟨f.pred, true, f.address, f.bytes⟩
  | _, _, some f, _ => some ⟨f.pred, false, f.address, 8⟩
  | _, _, _, some f => some ⟨f.pred, true, f.address, 8⟩
  | none, none, none, none => none

/-- An aligned data access of `n` bytes at `a` that reaches the physical address `pa`, through TLB entry `e` if translation
is on, no byte of which meets `err_i` (20_memory.md R100, R101). -/
def Reaches (s : State) (a : Word) (n : Nat) (pa : Word) (e : Option (Fin 64)) : Prop :=
  a.toNat % n = 0 ∧ s.lookup (s.dataAddress a) = .hit pa e ∧
    ∀ k < n, s.dataFails (pa + BitVec.ofNat 64 k) = false

/-- The first `m` elements, of `n` bytes each, of a string store from `a` upwards reach memory, each at its own translation
(44_load_store.md R300, R301). -/
def ElementsReach (s : State) (a : Word) (n m : Nat) (pa : Nat → Word) (e : Nat → Option (Fin 64)) : Prop :=
  ∀ k < m, Reaches s (a + BitVec.ofNat 64 (n * k)) n (pa k) (e k) ∧
    ∀ j < n, s.kindAt (pa k + BitVec.ofNat 64 j) = .memory

/-- `m` elements at the physical addresses `pa` hold the low `n` bytes of `v` in `t`; every other byte of memory reads as
in `s`. -/
def ElementsStored (s t : State) (n m : Nat) (pa : Nat → Word) (v : Word) : Prop :=
  (∀ k < m, ∀ j < n, Memory.read t.mem (pa k + BitVec.ofNat 64 j).toNat = v.extractLsb' (8 * j) 8) ∧
  ∀ a : Nat, (∀ k < m, ∀ j < n, a ≠ (pa k + BitVec.ofNat 64 j).toNat) → Memory.read t.mem a = Memory.read s.mem a

/-- The number that `n` bytes from a physical address on spell, the lowest address least significant (R73). -/
def littleEndian (s : State) (pa : Word) : Nat → Nat
  | 0 => 0
  | n + 1 => littleEndian s pa n + (s.busByte (pa + BitVec.ofNat 64 n)).toNat * 256 ^ n

/-- The number of `8 n` bits as a register holds it after a load (44_load_store.md R261). -/
def widened (signed : Bool) (n : Nat) (v : Nat) : Word :=
  if signed && decide (256 ^ n ≤ 2 * v) then BitVec.ofInt 64 ((v : Int) - 256 ^ n) else BitVec.ofNat 64 v

/-- The TLB after a write through an entry: its D bit is set (20_memory.md R87). -/
def dirtied (s : State) : Option (Fin 64) → Vector TlbEntry 64
  | none => s.tlb
  | some i => s.tlb.set i.val { s.tlb[i.val]'i.isLt with d := true } i.isLt

/-- The TLB entries of `t` are those of `s` but for D bits. -/
def SameEntriesButDirty (s t : State) : Prop :=
  ∀ i : Fin 64, t.tlb[i.val]'i.isLt = { s.tlb[i.val]'i.isLt with d := (t.tlb[i.val]'i.isLt).d }

/-- The memory of `t` is that of `s` with the low `n` bytes of `v` stored at `pa` upwards, as far as the platform has
memory there. -/
def StoredAt (s t : State) (pa : Word) (n : Nat) (v : Word) : Prop :=
  (∀ k < n, s.kindAt (pa + BitVec.ofNat 64 k) = .memory →
    Memory.read t.mem (pa + BitVec.ofNat 64 k).toNat = v.extractLsb' (8 * k) 8) ∧
  ∀ a : Nat, (∀ k < n, s.kindAt (pa + BitVec.ofNat 64 k) = .memory → a ≠ (pa + BitVec.ofNat 64 k).toNat) →
    Memory.read t.mem a = Memory.read s.mem a

/-! ### Which instructions change what -/

/-- The general register an extended instruction may write. -/
def extDestX : Ext → Option Reg
  | .alu _ _ _ rt _ | .ldi _ rt _ | .load _ _ _ rt _ | .cas _ _ _ _ rt _ => some rt
  | .cmpi .. | .ldis .. | .lws .. | .store .. | .sws .. | .jsr .. => none

/-- The special register an extended instruction may write. -/
def extDestSpr : Ext → Option SprNum
  | .ldis _ spr _ | .lws _ _ spr _ => some spr
  | .alu .. | .ldi .. | .load .. | .cas .. | .cmpi .. | .store .. | .sws .. | .jsr .. => none

/-- The general register an instruction may write, if any. -/
def destX : Instr → Option Reg
  | .add _ _ _ rt | .sub _ _ _ rt | .addu _ _ _ rt | .subu _ _ _ rt | .and _ _ _ rt | .or _ _ _ rt | .eor _ _ _ rt
  | .addu2 _ _ _ rt | .addu4 _ _ _ rt | .addu8 _ _ _ rt | .addu16 _ _ _ rt
  | .addi _ _ rt _ | .subi _ _ rt _ | .addui _ _ rt _ | .subui _ _ rt _ | .andi _ _ rt _ | .ori _ _ rt _
  | .eori _ _ rt _ | .addui2 _ _ rt _ | .addui4 _ _ rt _ | .addui8 _ _ rt _ | .addui16 _ _ rt _ | .lea _ _ rt _
  | .ldi _ rt _ | .ldit8 _ rt _ | .neg _ _ rt | .mov _ _ rt | .mfspr _ _ rt | .mux _ _ _ _ rt
  | .lb _ _ rt _ | .lbu _ _ rt _ | .lc _ _ rt _ | .lcu _ _ rt _ | .lh _ _ rt _ | .lhu _ _ rt _ | .lw _ _ rt _
  | .lvb _ _ rt _ | .lvc _ _ rt _ | .lvh _ _ rt _ | .lvw _ _ rt _
  | .lbx _ _ _ rt | .lbux _ _ _ rt | .lcx _ _ _ rt | .lcux _ _ _ rt | .lhx _ _ _ rt | .lhux _ _ _ rt | .lwx _ _ _ rt
  | .cas _ _ _ _ rt _ | .bfins _ _ rt _ _ | .bfset _ _ rt _ _ | .bfclr _ _ rt _ _ | .bfchg _ _ rt _ _
  | .bfextu _ _ rt _ _ | .bfext _ _ rt _ _ | .tlbrdreg _ _ rt
  | .bcdadd _ _ _ rt | .bcdsub _ _ _ rt | .bcdmul _ _ _ rt => some rt
  | i => (prefixParts i).bind fun q => extDestX q.2.2

/-- The special purpose register an instruction may write, if any. -/
def destSpr : Instr → Option SprNum
  | .ldis _ spr _ | .mtspr _ _ spr | .movs _ _ spr | .lws _ _ spr _ => some spr
  | i => (prefixParts i).bind fun q => extDestSpr q.2.2

/-- The branch register in which a call keeps its return address, if the instruction is a call (43_branch.md R234). -/
def linkOf : Instr → Option BReg
  | .jsr _ brt _ _ | .bsr _ brt _ => some brt
  | i => match prefixParts i with
    | some (_, _, .jsr _ brt _ _) => some brt
    | _ => none

/-- Whether an instruction is a compare, prefixed or not (10_state.md R31). -/
def isCompare (i : Instr) : Bool :=
  match i with
  | .cmp .. | .cmpi .. | .tst .. => true
  | i => match prefixParts i with
    | some (_, _, .cmpi ..) => true
    | _ => false

/-- Whether an instruction may store to memory. -/
def mayStore (s : State) (i : Instr) : Bool :=
  match i with
  | .stsb .. | .stsw .. => true
  | i => (storeForm s i).isSome || (casForm s i).isSome

/-- The instructions whose own effect writes SR (10_state.md R38). -/
def writesStatus : Instr → Bool
  | .cli .. | .sei .. | .rte .. | .rti .. => true
  | _ => false

/-- Whether an instruction is a TLB command that may change the TLB's registers or entries. -/
def isTlbWrite : Instr → Bool
  | .tlbpb .. | .tlbrd .. | .tlbwr .. | .tlbwi .. | .tlben .. | .tlbdis .. | .tlbwrreg .. => true
  | _ => false

end Sys2Proof.Machine
end

