-- ==== Sys2Proof/Certificates/Slice0/Obligations.lean ====
section
/-!
DEFINITION. The statements for the provers, each a proposition about the machine. Rules R<n> and decisions D<n> are
those of spec/; log entries are those of notes/assumptions.
-/

open Sys2Proof Sys2Proof.Machine

/-! ### Encoding -/

/-- Byte sequences written out from the spec's encodings decode to the instructions they stand for (examples of R150,
R222, R230, R234, R197, R306, R350, R365, R330; a sanity statement). -/
def Obligations.SpecBytesDecode : Prop :=
  decode [0x01, 0x40, 0x01, 0x02, 0x03] = .instr (.add ⟨0, .pt⟩ 1 2 3) 5 ∧
  decode [0x01, 0x03, 0x04] = .instr (.tst ⟨0, .pt⟩ 3 4) 3 ∧
  decode [0x13, 0x3F, 0xFA] = .instr (.br ⟨1, .pne⟩ 0xFFA) 3 ∧
  decode [0x01, 0xA2, 0x21, 0x12, 0x00, 0x00] = .instr (.jsr ⟨0, .pt⟩ 1 2 0x12) 6 ∧
  decode [0x01, 0xAA, 0x01, 0x02, 0xC8, 0x53] = .instr (.bfext ⟨0, .pt⟩ 1 2 8 15) 6 ∧
  decode [0x01, 0x97, 0x01, 0x02, 0x03, 0x04, 0x08] = .instr (.cas ⟨0, .pt⟩ 1 2 3 4 8) 7 ∧
  decode [0x01, 0xF0, 0x87, 0x05] = .instr (.tlbrdreg ⟨0, .pt⟩ 8 5) 4 ∧
  decode [0x20, 0x12, 0x01, 0x48, 0x01, 0x02, 0x34] = .instr (.imm16 0x12 (.alu .addi ⟨0, .pt⟩ 1 2 0x34)) 7 ∧
  decode [0x01, 0xA5, 0xCD, 0x04] = .instr (.sys ⟨0, .pt⟩ 4) 4

/-- Decode and encode agree on every well-formed instruction, with anything behind its bytes: the answer is the
instruction and its length. Where two rows have the same words (LEA and ADDUI; BSR, JMP and JSR: R146) it is the row
of log entry 27. -/
def Obligations.DecodeOfEncode : Prop :=
  ∀ (i : Instr) (rest : List Byte), i.wf = true →
    decode (encode i ++ rest) = .instr i.canonical (encode i).length

/-- Rows that share their words share their meaning (R146, R155, R235, R236). -/
def Obligations.AliasesMeanTheSame : Prop :=
  ∀ (i : Instr) (s : State), exec i.canonical s = exec i s

/-- The reserved encodings of R143 are rejected by name, whatever follows: bytes 90h to F0h, conditions 12, 14 and 15,
SYS and INT with another byte 2; and behind a prefix of each length, two to eight bytes, another prefix, a one-byte
instruction (BRK, NOP, the short RTS), those same bytes and conditions, and every opcode that R119 does not list (of those
that R142 leaves unassigned the rejection is the model's choice: log entry 16). -/
def Obligations.ReservedEncodingsAreRejected : Prop :=
  ∀ (rest : List Byte) (n : BitVec 4) (p : Pred) (b c : Byte),
    (9 ≤ n.toNat → decode ((n ++ 0#4) :: rest) = .reserved .predicateByte) ∧
    (decode ((n ++ 12#4) :: rest) = .reserved .condition ∧
      decode ((n ++ 14#4) :: rest) = .reserved .condition ∧
      decode ((n ++ 15#4) :: rest) = .reserved .condition) ∧
    (p.wf = true → b ≠ 0xCD → decode (p.byte :: 0xA5 :: b :: c :: rest) = .reserved .sysForm) ∧
    (p.wf = true → b ≠ 0xCE → decode (p.byte :: 0xA6 :: b :: c :: rest) = .reserved .sysForm) ∧
    (∀ (m : Nat) (k : List Byte), 2 ≤ m → m ≤ 8 → k.length + 1 = m →
      let behind (bs : List Byte) : Decoded := decode (BitVec.ofNat 8 (16 * m) :: (k ++ bs))
      (n.toNat ≤ 8 → behind ((n ++ 0#4) :: rest) = .reserved .misplacedPrefix) ∧
      behind (0x11 :: rest) = .reserved .misplacedPrefix ∧
      (9 ≤ n.toNat → behind ((n ++ 0#4) :: rest) = .reserved .predicateByte) ∧
      behind ((n ++ 12#4) :: rest) = .reserved .condition ∧ behind ((n ++ 14#4) :: rest) = .reserved .condition ∧
      behind ((n ++ 15#4) :: rest) = .reserved .condition ∧
      (p.wf = true → b.toNat / 16 ≠ 2 →
        b.toNat ∉ [0x48, 0x49, 0x4C, 0x4D, 0x53, 0x54, 0x55, 0x6B, 0x6C, 0x6D, 0x6E, 0x6F, 0x9D, 0x80, 0x81, 0x82, 0x83,
          0x84, 0x85, 0x86, 0x8E, 0x90, 0x91, 0x92, 0x93, 0x9E, 0x97, 0xA2, 0xD0, 0xD1, 0xD2, 0xD3] →
        behind (p.byte :: b :: rest) = .reserved .misplacedPrefix))

/-- The opcode bytes of R142 that no row uses, and the unassigned sub-codes of BF, BCD and TLB, decode as unassigned
under their predicate. -/
def Obligations.UnassignedOpcodesAreFound : Prop :=
  ∀ (p : Pred) (op a b c d f : Byte) (rest : List Byte), p.wf = true →
    ((op.toNat ∈ [0x42, 0x43, 0x46, 0x47, 0x4A, 0x4B, 0x4E, 0x4F, 0x71, 0x8F, 0x94, 0x95, 0x99, 0x9B, 0x9F, 0xA0, 0xA1,
          0xF1, 0xF2, 0xF6, 0xF7] ∨
        (0x58 ≤ op.toNat ∧ op.toNat ≤ 0x63) ∨ (0x66 ≤ op.toNat ∧ op.toNat ≤ 0x6A) ∨
        (0x73 ≤ op.toNat ∧ op.toNat ≤ 0x7F) ∨ (0x87 ≤ op.toNat ∧ op.toNat ≤ 0x8D) ∨
        (0xAC ≤ op.toNat ∧ op.toNat ≤ 0xAF) ∨ (0xB7 ≤ op.toNat ∧ op.toNat ≤ 0xBF) ∨
        (0xC4 ≤ op.toNat ∧ op.toNat ≤ 0xCF) ∨ (0xD4 ≤ op.toNat ∧ op.toNat ≤ 0xEF) ∨ 0xFC ≤ op.toNat) →
      decode (p.byte :: op :: rest) = .unassigned p) ∧
    (0x60 ≤ d.toNat → decode (p.byte :: 0xAA :: a :: b :: c :: d :: rest) = .unassigned p) ∧
    (3 ≤ f.toNat → decode (p.byte :: 0xF5 :: a :: b :: c :: f :: rest) = .unassigned p) ∧
    (9 ≤ a.toNat % 16 → decode (p.byte :: 0xF0 :: a :: b :: rest) = .unassigned p)

/-! ### The step -/

/-- A step at which no reset and no interrupt comes takes its inputs (pins, TICK, step counter) and then runs the
instruction that the bytes at the pc decode to. -/
def Obligations.StepRunsTheDecodedInstruction : Prop :=
  ∀ (s : State) (i : Instr) (len : Nat), s.Quiet →
    decode (s.sample.fetchBytes s.pc maxBytes).1 = .instr i len →
    step s = exec i s.sample ∧
    s.sample = { s with pins := nextPins s.now s.schedule, schedule := s.schedule.tail,
                        tick := s.tick + Config.tickAdvance s.now, now := s.now + 1 }

/-- Where the fetch finds the encoding of a well-formed instruction at the pc, byte by byte, the step runs it; what
stands or fails to translate behind it does not matter (R113, R390). -/
def Obligations.StepRunsTheEncodedInstruction : Prop :=
  ∀ (s : State) (i : Instr), s.Quiet → i.wf = true →
    (∀ (k : Nat) (h : k < (encode i).length),
      s.sample.fetchByte (s.pc + BitVec.ofNat 64 k) = .ok ((encode i)[k]'h)) →
    step s = exec i s.sample

/-- Reset comes before everything: the pc at the reset vector, IM and S set, FXE clear, translation off; EPC, IPC, the SR
backup half and memory are not written (R420, R421, R64, D8). -/
def Obligations.ResetPinResets : Prop :=
  ∀ s : State, (nextPins s.now s.schedule).rst = true →
    ∃ t, step s = .next t ∧ t.pc = 0xFFFFFFFFFFFFFFF0 ∧
      t.sr.extractLsb' 0 16 = 0xA000 ∧ t.sr.extractLsb' 16 16 = s.sr.extractLsb' 16 16 ∧
      t.tlbEnabled = false ∧ t.getBr 13 = s.getBr 13 ∧ t.getBr 14 = s.getBr 14 ∧
      t.getX 0 = 0 ∧ t.getBr 0 = 0 ∧ t.cfg = s.cfg ∧ SameMemory s t

/-- An interrupt is taken in place of the next instruction, with its address in IPC: NMI (vector 254) when `nmi_i` rises,
whatever IM is; else IRQ, with the vector on `vec_i`, when IM is 0 (R384, R385, R390). -/
def Obligations.InterruptsAreTaken : Prop :=
  ∀ s : State, (nextPins s.now s.schedule).rst = false →
    ((nextPins s.now s.schedule).nmi = true → s.pins.nmi = false →
      ∃ t, step s = .next t ∧ TrapFrom s.sample t 14 254 s.pc) ∧
    (((nextPins s.now s.schedule).nmi = true → s.pins.nmi = true) →
      (nextPins s.now s.schedule).irq = true → s.sr.getLsbD 15 = false →
      ∃ t, step s = .next t ∧ TrapFrom s.sample t 14 (nextPins s.now s.schedule).vec s.pc)

/-- The first byte whose fetch fails decides, if the bytes before it are no whole instruction: no TLB entry gives
exception 249 with the address in IMA if IMA held 0, a fetch cycle that ends with `err_i` (an absent address does so always)
gives exception 252; EPC is the pc (R88, R100, R377, R390). Where several TLB entries match, which R86 calls
unpredictable, the model stops by name (U10; log entry 12). -/
def Obligations.FailingFetchTraps : Prop :=
  ∀ (s : State) (bs : List Byte), s.Quiet → bs.length < maxBytes → decode bs = .truncated →
    (∀ (k : Nat) (h : k < bs.length), s.sample.fetchByte (s.pc + BitVec.ofNat 64 k) = .ok (bs[k]'h)) →
    let sa := s.codeAddress (s.pc + BitVec.ofNat 64 bs.length)
    (s.lookup sa = .miss →
      ∃ t, step s = .next t ∧
        TrapFrom { s.sample with
          tlbRegs := { s.tlbRegs with ima := if s.tlbRegs.ima = 0 then sa else s.tlbRegs.ima } } t 13 249 s.pc) ∧
    (∀ pa e, s.lookup sa = .hit pa e → s.sample.codeFails pa = true →
      ∃ t, step s = .next t ∧ TrapFrom s.sample t 13 252 s.pc) ∧
    (s.lookup sa = .multiple → step s = .fault .tlbMultipleMatch)

/-- An unassigned opcode at the pc raises exception 250 with EPC the pc when its predicate holds (R140); under a false
predicate, and for a reserved encoding, the model refuses by name (R141, R143). -/
def Obligations.UnimplementedInstructionTraps : Prop :=
  ∀ (s : State) (p : Pred), s.Quiet →
    (decode (s.sample.fetchBytes s.pc maxBytes).1 = .unassigned p → s.sample.holds p = true →
      ∃ t, step s = .next t ∧ TrapFrom s.sample t 13 250 s.pc) ∧
    (decode (s.sample.fetchBytes s.pc maxBytes).1 = .unassigned p → s.sample.holds p = false →
      step s = .refused .unassignedSkipped) ∧
    (∀ r, decode (s.sample.fetchBytes s.pc maxBytes).1 = .reserved r → step s = .refused (.reserved r))

/-- Bytes stored as data and then fetched (R99, D4): the fetch of a byte of memory finds what memory holds or a byte
that an earlier store replaced; after a MEMSB and a taken branch it finds what memory holds. -/
def Obligations.CodeIsFreshAfterBarrierAndBranch : Prop :=
  (∀ (s : State) (pa : Word), s.kindAt pa = .memory →
    s.codeByte pa = Memory.read s.mem pa.toNat ∨
      (pa.toNat, s.codeByte pa) ∈ s.lag.overwritten ++ s.lag.drained) ∧
  (∀ (s u t : State) (p q : Pred) (disp : BitVec 12) (pa : Word),
    exec (.memsb p) s = .next u → u.holds q = true → exec (.br q disp) u = .next t → t.kindAt pa = .memory →
    t.codeByte pa = Memory.read s.mem pa.toNat)

/-! ### Predicates and compares -/

/-- The predicate conditions of R34, on bits 0 (eq), 1 (lt) and 2 (ltu) of the predicate register and the external
signal. -/
def Obligations.PredicateConditions : Prop :=
  ∀ (s : State) (n : PReg),
    let eq := (s.getP n).getLsbD 0
    let lt := (s.getP n).getLsbD 1
    let ltu := (s.getP n).getLsbD 2
    s.holds ⟨n, .pf⟩ = false ∧ s.holds ⟨n, .pt⟩ = true ∧
    s.holds ⟨n, .peq⟩ = eq ∧ s.holds ⟨n, .pne⟩ = !eq ∧
    s.holds ⟨n, .ple⟩ = (lt || eq) ∧ s.holds ⟨n, .pgt⟩ = !(lt || eq) ∧
    s.holds ⟨n, .pge⟩ = !lt ∧ s.holds ⟨n, .plt⟩ = lt ∧
    s.holds ⟨n, .pleu⟩ = (ltu || eq) ∧ s.holds ⟨n, .pgtu⟩ = !(ltu || eq) ∧
    s.holds ⟨n, .pgeu⟩ = !ltu ∧ s.holds ⟨n, .pltu⟩ = ltu ∧
    s.holds ⟨n, .psig⟩ = s.pins.psig

/-- Under a false predicate an instruction only advances the pc by its length, prefix included; of MEMSB, which acts
all the same, the model's record of replaced bytes (`lag`) is settled as well (R16, R432; log entry 23). -/
def Obligations.FalsePredicateOnlyAdvances : Prop :=
  ∀ (i : Instr) (p : Pred) (s : State), i.pred? = some p → s.holds p = false →
    ((∀ q, i ≠ .memsb q) →
      exec i s = .next { s with pc := s.pc + BitVec.ofNat 64 (encode i).length }) ∧
    (i = .memsb p →
      exec i s = .next { s with pc := s.pc + 2
                                lag := { overwritten := [], drained := s.lag.overwritten ++ s.lag.drained } })

/-- CMP, CMPI (prefixed or not) and TST leave equality, signed and unsigned order in the target predicate register, bit 3
clear, and change nothing else (R219 to R222). -/
def Obligations.ComparesSetFlags : Prop :=
  ∀ (s : State) (p : Pred) (pt : PReg) (ra rb : Reg) (b : BitVec 8), s.holds p = true →
    let flags (f : BitVec 4) (x y : Word) : Prop :=
      f.getLsbD 0 = decide (x = y) ∧ f.getLsbD 1 = decide (x.toInt < y.toInt) ∧
      f.getLsbD 2 = decide (x.toNat < y.toNat) ∧ f.getLsbD 3 = false
    (∃ f, flags f (s.getX ra) (s.getX rb) ∧ WritesP (.cmp p pt ra rb) s pt f 4) ∧
    (∃ f, flags f (s.getX ra) (b.signExtend 64) ∧ WritesP (.cmpi p pt ra b) s pt f 4) ∧
    (∃ f, flags f (s.getX ra) 0 ∧ WritesP (.tst p pt ra) s pt f 3) ∧
    (∀ i n imm, prefixParts i = some (n, imm, .cmpi p pt ra b) →
      ∃ f, flags f (s.getX ra) imm ∧ WritesP i s pt f (n + 4))

/-- After a compare of `a` and `b` the conditions mean the ten comparisons (R223). -/
def Obligations.ConditionsMeanComparisons : Prop :=
  ∀ (a b : Word) (sig : Bool),
    let h (c : Cond) : Bool := condHolds c (compareFlags a b) sig
    h .peq = decide (a = b) ∧ h .pne = decide (a ≠ b) ∧
    h .plt = decide (a.toInt < b.toInt) ∧ h .pge = decide (b.toInt ≤ a.toInt) ∧
    h .ple = decide (a.toInt ≤ b.toInt) ∧ h .pgt = decide (b.toInt < a.toInt) ∧
    h .pltu = decide (a.toNat < b.toNat) ∧ h .pgeu = decide (b.toNat ≤ a.toNat) ∧
    h .pleu = decide (a.toNat ≤ b.toNat) ∧ h .pgtu = decide (b.toNat < a.toNat)

/-! ### Arithmetic and logic -/

/-- ADD, SUB, ADDI and SUBI (the last two prefixed or not) leave the exact signed sum or difference when 64 bits hold it
(R148, R150 to R153). -/
def Obligations.SignedAddAndSubtract : Prop :=
  ∀ (s : State) (p : Pred) (ra rb rt : Reg) (b : BitVec 8), s.holds p = true →
    let fits (z : Int) : Prop := -2 ^ 63 ≤ z ∧ z < 2 ^ 63
    let x := (s.getX ra).toInt
    let y := (s.getX rb).toInt
    (fits (x + y) → WritesX (.add p ra rb rt) s rt (BitVec.ofInt 64 (x + y)) 5) ∧
    (fits (x - y) → WritesX (.sub p ra rb rt) s rt (BitVec.ofInt 64 (x - y)) 5) ∧
    (fits (x + b.toInt) → WritesX (.addi p ra rt b) s rt (BitVec.ofInt 64 (x + b.toInt)) 5) ∧
    (fits (x - b.toInt) → WritesX (.subi p ra rt b) s rt (BitVec.ofInt 64 (x - b.toInt)) 5) ∧
    (∀ i n imm, prefixParts i = some (n, imm, .alu .addi p ra rt b) → fits (x + imm.toInt) →
      WritesX i s rt (BitVec.ofInt 64 (x + imm.toInt)) (n + 5)) ∧
    (∀ i n imm, prefixParts i = some (n, imm, .alu .subi p ra rt b) → fits (x - imm.toInt) →
      WritesX i s rt (BitVec.ofInt 64 (x - imm.toInt)) (n + 5))

/-- When 64 bits do not hold the signed sum or difference, ADD, SUB, ADDI and SUBI write no general register and take
the exception of the vector that the configuration names, EPC being the instruction's pc (R148, R149, D9). -/
def Obligations.SignedOverflowTraps : Prop :=
  ∀ (s : State) (p : Pred) (ra rb rt : Reg) (b : BitVec 8), s.holds p = true →
    let fits (z : Int) : Prop := -2 ^ 63 ≤ z ∧ z < 2 ^ 63
    let x := (s.getX ra).toInt
    let y := (s.getX rb).toInt
    let traps (i : Instr) : Prop := ∃ t, exec i s = .next t ∧ TrapFrom s t 13 s.cfg.overflowVector s.pc
    (¬ fits (x + y) → traps (.add p ra rb rt)) ∧
    (¬ fits (x - y) → traps (.sub p ra rb rt)) ∧
    (¬ fits (x + b.toInt) → traps (.addi p ra rt b)) ∧
    (¬ fits (x - b.toInt) → traps (.subi p ra rt b)) ∧
    (∀ i n imm, prefixParts i = some (n, imm, .alu .addi p ra rt b) → ¬ fits (x + imm.toInt) → traps i) ∧
    (∀ i n imm, prefixParts i = some (n, imm, .alu .subi p ra rt b) → ¬ fits (x - imm.toInt) → traps i)

/-- The register-register instructions that never trap, each with its opcode byte: ADDU, SUBU, the scaled adds, AND, OR
and EOR leave their result in the target and change no flag and nothing else (R154, R156, R158, R160, R162, R164, R190,
R192, R194). -/
def Obligations.RegisterRegisterOperations : Prop :=
  ∀ (s : State) (p : Pred) (ra rb rt : Reg), s.holds p = true →
    let x := s.getX ra
    let y := s.getX rb
    let does (i : Instr) (op : Byte) (v : Word) : Prop := encode i = [p.byte, op, ra, rb, rt] ∧ WritesX i s rt v 5
    does (.addu p ra rb rt) 0x44 (BitVec.ofNat 64 (x.toNat + y.toNat)) ∧
    does (.subu p ra rb rt) 0x45 (BitVec.ofInt 64 (x.toNat - y.toNat)) ∧
    does (.addu2 p ra rb rt) 0x56 (BitVec.ofNat 64 (x.toNat * 2 + y.toNat)) ∧
    does (.addu4 p ra rb rt) 0x57 (BitVec.ofNat 64 (x.toNat * 4 + y.toNat)) ∧
    does (.addu8 p ra rb rt) 0x64 (BitVec.ofNat 64 (x.toNat * 8 + y.toNat)) ∧
    does (.addu16 p ra rb rt) 0x65 (BitVec.ofNat 64 (x.toNat * 16 + y.toNat)) ∧
    does (.and p ra rb rt) 0x50 (x &&& y) ∧
    does (.or p ra rb rt) 0x51 (x ||| y) ∧
    does (.eor p ra rb rt) 0x52 (x ^^^ y)

/-- The register-immediate instructions that never trap, with the immediate `imm`: ADDUI (and LEA), SUBUI, the scaled
adds, ANDI, ORI, EORI, unprefixed (`imm` the sign-extended byte) and behind any prefix (R155, R157, R159, R161, R163,
R165, R191, R193, R195, R118, R120). -/
def Obligations.RegisterImmediateOperations : Prop :=
  ∀ (s : State) (p : Pred) (ra rt : Reg) (b : BitVec 8), s.holds p = true →
    let x := s.getX ra
    let result (op : ImmOp) (imm : Word) : Option Word :=
      match op with
      | .addui => some (x + imm)
      | .subui => some (x - imm)
      | .addui2 => some (2 * x + imm)
      | .addui4 => some (4 * x + imm)
      | .addui8 => some (8 * x + imm)
      | .addui16 => some (16 * x + imm)
      | .andi => some (x &&& imm)
      | .ori => some (x ||| imm)
      | .eori => some (x ^^^ imm)
      | .addi | .subi => none
    let plain (op : ImmOp) (i : Instr) : Prop :=
      ∀ v, result op (b.signExtend 64) = some v → WritesX i s rt v 5
    plain .addui (.addui p ra rt b) ∧ plain .addui (.lea p ra rt b) ∧ plain .subui (.subui p ra rt b) ∧
    plain .addui2 (.addui2 p ra rt b) ∧ plain .addui4 (.addui4 p ra rt b) ∧ plain .addui8 (.addui8 p ra rt b) ∧
    plain .addui16 (.addui16 p ra rt b) ∧ plain .andi (.andi p ra rt b) ∧ plain .ori (.ori p ra rt b) ∧
    plain .eori (.eori p ra rt b) ∧
    (∀ i n imm op v, prefixParts i = some (n, imm, .alu op p ra rt b) → result op imm = some v →
      WritesX i s rt v (n + 5))

/-- The immediate behind a prefix of `n` bits is the prefix's bits over the low byte of the instruction's own field, as a
signed number of `n + 8` bits; that field is the immediate or the displacement of the instruction, of JSR the low byte of
its offset, whose other bits do not count (R117, R118, R122, D33). -/
def Obligations.PrefixedImmediateIsSigned : Prop :=
  (∀ (n : Nat) (k : BitVec n) (b : BitVec 8), n ≤ 56 →
    (immPrefixed k b).toInt = (k ++ b).toInt ∧ (immPrefixed k b).extractLsb' 0 8 = b ∧
    (immPrefixed k b).extractLsb' 8 n = k) ∧
  ∀ e : Ext,
    let field : BitVec 8 :=
      match e with
      | .alu _ _ _ _ imm | .cmpi _ _ _ imm | .ldi _ _ imm | .ldis _ _ imm => imm
      | .load _ _ _ _ off | .lws _ _ _ off | .store _ _ _ _ off | .sws _ _ _ off | .cas _ _ _ _ _ off => off
      | .jsr _ _ _ off => off.extractLsb' 0 8
    let tied (i : Instr) (len : Nat) (v : Int) : Prop :=
      ∃ imm, prefixParts i = some (len, imm, e) ∧ imm.toInt = v
    (∀ k, tied (.imm16 k e) 2 (k ++ field).toInt) ∧ (∀ k, tied (.imm24 k e) 3 (k ++ field).toInt) ∧
    (∀ k, tied (.imm32 k e) 4 (k ++ field).toInt) ∧ (∀ k, tied (.imm40 k e) 5 (k ++ field).toInt) ∧
    (∀ k, tied (.imm48 k e) 6 (k ++ field).toInt) ∧ (∀ k, tied (.imm56 k e) 7 (k ++ field).toInt) ∧
    (∀ k, tied (.imm64 k e) 8 (k ++ field).toInt)

/-- NEG, MOV, LDI (prefixed or not), LDIT8 and MUX (R166 to R169, R196). -/
def Obligations.MovesAndLoadImmediates : Prop :=
  ∀ (s : State) (p : Pred) (ra rb rc rt : Reg) (b : BitVec 8), s.holds p = true →
    WritesX (.neg p ra rt) s rt (BitVec.ofInt 64 (-(s.getX ra).toInt)) 4 ∧
    WritesX (.mov p ra rt) s rt (s.getX ra) 4 ∧
    WritesX (.ldi p rt b) s rt (b.signExtend 64) 4 ∧
    (∀ i n imm, prefixParts i = some (n, imm, .ldi p rt b) → WritesX i s rt imm (n + 4)) ∧
    (∃ v, WritesX (.ldit8 p rt b) s rt v 4 ∧
      v.extractLsb' 56 8 = b ∧ v.extractLsb' 0 56 = (s.getX rt).extractLsb' 0 56) ∧
    (∃ v, WritesX (.mux p ra rb rc rt) s rt v 6 ∧
      ∀ k < 64, v.getLsbD k = if (s.getX ra).getLsbD k then (s.getX rb).getLsbD k else (s.getX rc).getLsbD k)

/-- The six bitfield instructions bit by bit, for a field `me .. mb` with `mb ≤ me`, both ends included (R197 to R203,
D40). -/
def Obligations.BitfieldOperations : Prop :=
  ∀ (s : State) (p : Pred) (ra rt : Reg) (mb me : BitVec 6), s.holds p = true → mb.toNat ≤ me.toNat →
    let x (k : Nat) : Bool := (s.getX ra).getLsbD k
    let inside (k : Nat) : Bool := decide (mb.toNat ≤ k) && decide (k ≤ me.toNat)
    let does (i : Instr) (bit : Nat → Bool) : Prop :=
      ∃ v, WritesX i s rt v 6 ∧ ∀ k < 64, v.getLsbD k = bit k
    does (.bfins p ra rt mb me) (fun k => if inside k then x (k - mb.toNat) else (s.getX rt).getLsbD k) ∧
    does (.bfset p ra rt mb me) (fun k => inside k || x k) ∧
    does (.bfclr p ra rt mb me) (fun k => !inside k && x k) ∧
    does (.bfchg p ra rt mb me) (fun k => xor (inside k) (x k)) ∧
    does (.bfextu p ra rt mb me) (fun k => decide (k + mb.toNat ≤ me.toNat) && x (k + mb.toNat)) ∧
    does (.bfext p ra rt mb me) (fun k => x (min (k + mb.toNat) me.toNat))

/-- BCDADD, BCDSUB and BCDMUL on two packed digits, modulo 100 for the first two; with a digit above 9 in a source some
value is left and nothing else changes (R204 to R208, D41; log entry 7). -/
def Obligations.BcdOperations : Prop :=
  ∀ (s : State) (p : Pred) (ra rb rt : Reg) (a1 a0 b1 b0 : Nat), s.holds p = true →
    (s.getX ra).toNat % 256 = 16 * a1 + a0 → a1 < 16 → a0 < 16 →
    (s.getX rb).toNat % 256 = 16 * b1 + b0 → b1 < 16 → b0 < 16 →
    let valid : Prop := a1 ≤ 9 ∧ a0 ≤ 9 ∧ b1 ≤ 9 ∧ b0 ≤ 9
    let a := 10 * a1 + a0
    let b := 10 * b1 + b0
    let packed (n : Nat) : Word :=
      BitVec.ofNat 64 (n / 1000 * 4096 + n / 100 % 10 * 256 + n / 10 % 10 * 16 + n % 10)
    (valid → WritesX (.bcdadd p ra rb rt) s rt (packed ((a + b) % 100)) 6 ∧
      WritesX (.bcdsub p ra rb rt) s rt (packed (((a : Int) - b) % 100).toNat) 6 ∧
      WritesX (.bcdmul p ra rb rt) s rt (packed (a * b)) 6) ∧
    (¬ valid → (∃ v, WritesX (.bcdadd p ra rb rt) s rt v 6) ∧ (∃ v, WritesX (.bcdsub p ra rb rt) s rt v 6) ∧
      ∃ v, WritesX (.bcdmul p ra rb rt) s rt v 6)

/-! ### Control transfer -/

/-- BR, RTS (long and short form) and LOOP: the targets are relative to the instruction's own address, and LOOP
branches and decrements while the counter is not 0 (R230, R238 to R240, D42, D43). -/
def Obligations.BranchesAndReturns : Prop :=
  ∀ (s : State) (p : Pred) (disp : BitVec 12) (d : BitVec 8) (im br : BitVec 4), s.holds p = true →
    JumpsTo (.br p disp) s (s.pc + BitVec.ofInt 64 disp.toInt) ∧
    JumpsTo (.rts p im br) s (s.getBr br + BitVec.ofNat 64 im.toNat) ∧
    JumpsTo .rtsShort s (s.getBr 1) ∧
    (s.lc ≠ 0 → ∃ t, exec (.loop p d) s = .next t ∧ SameMemory s t ∧
      t = { s with lc := s.lc - 1, pc := s.pc + BitVec.ofInt 64 d.toInt, lag := { s.lag with drained := [] } }) ∧
    (s.lc = 0 → exec (.loop p d) s = .next { s with pc := s.pc + 3 })

/-- JSR, BSR and JMP, and JSR behind a prefix: the link register gets the address behind the whole sequence (nothing in
registers 0 and 15), the target is the old base plus the offset, which is signed when the base is the pc; behind a prefix
the offset is the prefixed immediate, of the instruction's own offset only the low byte (R234 to R236, R122; conflict
C1). -/
def Obligations.CallsLinkAndJump : Prop :=
  ∀ (s : State) (p : Pred) (brt br : BReg) (off : BitVec 24), s.holds p = true →
    let calls (i : Instr) (link : BReg) (base offset : Word) (len : Nat) : Prop :=
      ∃ t, exec i s = .next t ∧
        (∀ r : BReg, r ≠ 15 → t.getBr r = if r = link ∧ r ≠ 0 then s.pc + BitVec.ofNat 64 len else s.getBr r) ∧
        t.pc = base + offset ∧
        t = { s with br := t.br, pc := t.pc, lag := { s.lag with drained := [] } } ∧ SameMemory s t
    calls (.jsr p brt br off) brt (s.getBr br)
      (if br = 15 then BitVec.ofInt 64 off.toInt else BitVec.ofNat 64 off.toNat) 6 ∧
    calls (.bsr p brt off) brt s.pc (BitVec.ofInt 64 off.toInt) 6 ∧
    calls (.jmp p br off) 0 (s.getBr br)
      (if br = 15 then BitVec.ofInt 64 off.toInt else BitVec.ofNat 64 off.toNat) 6 ∧
    (∀ i n imm, prefixParts i = some (n, imm, .jsr p brt br off) →
      imm.extractLsb' 0 8 = off.extractLsb' 0 8 ∧ calls i brt (s.getBr br) imm (n + 6))

/-- NOP, MEMDB, MEMSB and TLB command 0 only advance the pc (R241, R326, R327, R352); MEMSB also settles the model's
record of replaced bytes (log entry 19). -/
def Obligations.InstructionsWithoutEffect : Prop :=
  ∀ (s : State) (p : Pred) (tn : BitVec 4) (r : Reg), s.holds p = true →
    exec .nop s = .next { s with pc := s.pc + 1 } ∧
    exec (.memdb p) s = .next { s with pc := s.pc + 2 } ∧
    exec (.memsb p) s =
      .next { s with pc := s.pc + 2, lag := { overwritten := [], drained := s.lag.overwritten ++ s.lag.drained } } ∧
    exec (.tlbnop p tn r) s = .next { s with pc := s.pc + 4 }

/-! ### Traps -/

/-- BRK, SYS and INT take their traps: BRK and SYS link behind themselves through EPC, INT links to itself through IPC
(R242, R330, R331, R376, R377, D44, D51, D52). -/
def Obligations.SoftwareTraps : Prop :=
  ∀ (s : State) (p : Pred) (vec : BitVec 8),
    (∃ t, exec .brk s = .next t ∧ TrapFrom s t 13 0 (s.pc + 1)) ∧
    (s.holds p = true →
      (∃ t, exec (.sys p vec) s = .next t ∧ TrapFrom s t 13 vec (s.pc + 4)) ∧
      ∃ t, exec (.int p vec) s = .next t ∧ TrapFrom s t 14 vec s.pc)

/-- RTE and RTI, with their encodings: the pc from EPC or IPC, the low half of SR from the backup half, which keeps its
value; RTI clears IM after that. No other state of the spec changes; of `lag`, the model's own field, nothing is said
(R332, R333). -/
def Obligations.ReturnsRestoreStatus : Prop :=
  ∀ (s : State) (p : Pred), s.holds p = true →
    encode (.rte p) = [p.byte, 0xF3] ∧ encode (.rti p) = [p.byte, 0xF4] ∧
    (∃ t, exec (.rte p) s = .next t ∧ t.pc = s.getBr 13 ∧
      t.sr.extractLsb' 0 16 = s.sr.extractLsb' 16 16 ∧ t.sr.extractLsb' 16 16 = s.sr.extractLsb' 16 16 ∧
      t = { s with pc := t.pc, sr := t.sr, lag := t.lag } ∧ SameMemory s t) ∧
    (∃ t, exec (.rti p) s = .next t ∧ t.pc = s.getBr 14 ∧
      (∀ k < 16, t.sr.getLsbD k = (decide (k ≠ 15) && s.sr.getLsbD (k + 16))) ∧
      t.sr.extractLsb' 16 16 = s.sr.extractLsb' 16 16 ∧
      t = { s with pc := t.pc, sr := t.sr, lag := t.lag } ∧ SameMemory s t)

/-- A system call and the return from it: SYS, then RTE in the state entered, comes back behind the SYS with the status
in force before it, every general register and all of memory unchanged (R330, R332, R397). -/
def Obligations.SysThenRteComesBack : Prop :=
  ∀ (s : State) (p q : Pred) (vec : BitVec 8), s.holds p = true → s.holds q = true →
    ∃ u t, exec (.sys p vec) s = .next u ∧ exec (.rte q) u = .next t ∧
      u.km = true ∧ u.im = true ∧ t.pc = s.pc + 4 ∧ t.statusLow = s.statusLow ∧
      (∀ r, t.getX r = s.getX r) ∧ (∀ r, t.getP r = s.getP r) ∧ SameMemory s t

/-- CLI and SEI write IM, bit 15 of SR, and nothing else (R324, R325). -/
def Obligations.InterruptMaskInstructions : Prop :=
  ∀ (s : State) (p : Pred), s.holds p = true →
    let does (i : Instr) (b : Bool) : Prop :=
      ∃ t, exec i s = .next t ∧
        (∀ k < 32, t.sr.getLsbD k = if k = 15 then b else s.sr.getLsbD k) ∧
        t = { s with sr := t.sr, pc := s.pc + 2 } ∧ SameMemory s t
    does (.cli p) false ∧ does (.sei p) true

/-! ### Memory -/

/-- Every load into a general register, displacement, indexed, volatile or prefixed, whose aligned access reaches memory
or a device: the target gets the little-endian bytes, sign- or zero-extended, and nothing else changes; in register 0
nothing is left (R73, R260 to R283, D1, D46). Where the platform has memory the bytes are memory's. -/
def Obligations.LoadsFillTheTarget : Prop :=
  ∀ (s : State) (i : Instr) (f : LoadForm) (pa : Word) (e : Option (Fin 64)),
    loadForm s i = some f → s.holds f.pred = true → Reaches s f.address f.bytes pa e →
    WritesX i s f.target (widened f.signed f.bytes (littleEndian s pa f.bytes)) f.length ∧
    ∀ a, s.kindAt a = .memory → s.busByte a = Memory.read s.mem a.toNat

/-- Every store of one element, displacement, indexed, STI, SWS or prefixed, whose aligned access reaches memory or a
device: the bytes of memory at the physical address get the data, low byte first, every other byte keeps its value, the
D bit of the TLB entry used is set, and no register or flag changes (R73, R87, R285 to R294, R261). -/
def Obligations.StoresWriteTheirBytes : Prop :=
  ∀ (s : State) (i : Instr) (f : StoreForm) (pa : Word) (e : Option (Fin 64)), s.Inv →
    storeForm s i = some f → s.holds f.pred = true → Reaches s f.address f.bytes pa e →
    ∃ t, exec i s = .next t ∧ StoredAt s t pa f.bytes f.data ∧ t.tlb = dirtied s e ∧
      t = { s with mem := t.mem, lag := t.lag, tlb := t.tlb, pc := s.pc + BitVec.ofNat 64 f.length }

/-- LWS, prefixed or not, writes the word at its address to the special register (R269, R341). -/
def Obligations.LwsWritesTheSpecialRegister : Prop :=
  ∀ (s : State) (i : Instr) (f : LwsForm) (pa : Word) (e : Option (Fin 64)),
    lwsForm s i = some f → s.holds f.pred = true → Reaches s f.address 8 pa e →
    ∃ t, exec i s = .next t ∧ SprWritten s t f.spr (BitVec.ofNat 64 (littleEndian s pa 8)) f.length

/-- CAS, prefixed or not: the target gets the old word; memory gets the new word exactly when the old one was the
expected one; the TLB entry used is marked dirty either way (R306, D47). -/
def Obligations.CompareAndSwap : Prop :=
  ∀ (s : State) (i : Instr) (f : CasForm) (pa : Word) (e : Option (Fin 64)), s.Inv →
    casForm s i = some f → s.holds f.pred = true → Reaches s f.address 8 pa e →
    let old := BitVec.ofNat 64 (littleEndian s pa 8)
    ∃ t, exec i s = .next t ∧
      (∀ r : Reg, t.getX r = if r = f.target ∧ r ≠ 0 then old else s.getX r) ∧
      (old = f.expected → StoredAt s t pa 8 f.new) ∧ (old ≠ f.expected → SameMemory s t) ∧
      t.tlb = dirtied s e ∧
      t = { s with x := t.x, mem := t.mem, lag := t.lag, tlb := t.tlb, pc := s.pc + BitVec.ofNat 64 f.length }

/-- STSB and STSW, every element reaching memory: as many elements as the loop counter says are stored from `x[Ra]` up,
each at its own translation, the counter ends at 0, every other byte and every register keeps its value (R300, R301). -/
def Obligations.StringStoresFill : Prop :=
  ∀ (s : State) (p : Pred) (ra rb : Reg) (n : Nat) (i : Instr) (pa : Nat → Word) (e : Nat → Option (Fin 64)), s.Inv →
    (n = 1 ∧ i = .stsb p ra rb) ∨ (n = 8 ∧ i = .stsw p ra rb) → s.holds p = true →
    ElementsReach s (s.getX ra) n s.lc.toNat pa e →
    ∃ t, exec i s = .next t ∧ t.lc = 0 ∧ t.pc = s.pc + 4 ∧ ElementsStored s t n s.lc.toNat pa (s.getX rb) ∧
      SameEntriesButDirty s t ∧ t = { s with lc := t.lc, mem := t.mem, lag := t.lag, tlb := t.tlb, pc := t.pc }

/-- A string store whose element `m` is the first without a TLB entry: exception 248 with EPC its own pc, the earlier
elements stored and the loop counter reduced by their number, the missing address in DMA if DMA held 0; the status is
saved and changed as by any trap, and every other byte and register and, but for D bits, the TLB stay (R302, R88, R376,
D45). -/
def Obligations.StringStoreMissKeepsProgress : Prop :=
  ∀ (s : State) (p : Pred) (ra rb : Reg) (n m : Nat) (i : Instr) (pa : Nat → Word) (e : Nat → Option (Fin 64)), s.Inv →
    (n = 1 ∧ i = .stsb p ra rb) ∨ (n = 8 ∧ i = .stsw p ra rb) → s.holds p = true → m < s.lc.toNat →
    ElementsReach s (s.getX ra) n m pa e →
    let a := s.getX ra + BitVec.ofNat 64 (n * m)
    a.toNat % n = 0 → s.lookup (s.dataAddress a) = .miss →
    ∃ t, exec i s = .next t ∧ ElementsStored s t n m pa (s.getX rb) ∧ SameEntriesButDirty s t ∧
      TrapFrom { s with
        mem := t.mem, lag := t.lag, tlb := t.tlb, lc := s.lc - BitVec.ofNat 64 m
        tlbRegs := { s.tlbRegs with
          dma := if s.tlbRegs.dma = 0 then s.dataAddress a else s.tlbRegs.dma } } t 13 248 s.pc

/-- A string store whose element `m` is the first to meet `err_i`: exception 251 with EPC its own pc, the earlier elements
stored and the loop counter reduced by their number; the status is saved and changed as by any trap, and every other byte
and register and, but for D bits, the TLB stay (R302, R100, R376, D45). That the D bit of the entry which translated
the failing element is set is the model's choice (log entry 28). -/
def Obligations.StringStoreBusErrorKeepsProgress : Prop :=
  ∀ (s : State) (p : Pred) (ra rb : Reg) (n m : Nat) (i : Instr) (pa : Nat → Word) (e : Nat → Option (Fin 64)), s.Inv →
    (n = 1 ∧ i = .stsb p ra rb) ∨ (n = 8 ∧ i = .stsw p ra rb) → s.holds p = true → m < s.lc.toNat →
    ElementsReach s (s.getX ra) n m pa e →
    let a := s.getX ra + BitVec.ofNat 64 (n * m)
    a.toNat % n = 0 →
    ∀ (pb : Word) (d : Option (Fin 64)) (j : Nat), s.lookup (s.dataAddress a) = .hit pb d → j < n →
      s.dataFails (pb + BitVec.ofNat 64 j) = true →
      ∃ t, exec i s = .next t ∧ ElementsStored s t n m pa (s.getX rb) ∧ SameEntriesButDirty s t ∧
        (∀ w : Fin 64, d = some w → (t.tlb[w.val]'w.isLt).d = true) ∧
        TrapFrom { s with
          mem := t.mem, lag := t.lag, tlb := t.tlb, lc := s.lc - BitVec.ofNat 64 m } t 13 251 s.pc

/-- A data access for which no TLB entry matches takes exception 248, one with a byte whose cycle ends with `err_i` (an
absent byte does so always) exception 251: EPC is the instruction's pc, memory and the target keep their values, a miss is
recorded in DMA if DMA held 0, and only the D bit of a write's entry may change besides (R88, R100, R277, R373, R377; log
entry 28). -/
def Obligations.FailingDataAccessTraps : Prop :=
  ∀ (s : State) (i : Instr) (a : DataAccess), dataAccess s i = some a → s.holds a.pred = true →
    a.address.toNat % a.bytes = 0 →
    let sa := s.dataAddress a.address
    (s.lookup sa = .miss →
      ∃ t, exec i s = .next t ∧
        TrapFrom { s with tlbRegs := { s.tlbRegs with dma := if s.tlbRegs.dma = 0 then sa else s.tlbRegs.dma } }
          t 13 248 s.pc) ∧
    (∀ pa e k, s.lookup sa = .hit pa e → k < a.bytes → s.dataFails (pa + BitVec.ofNat 64 k) = true →
      ∃ t, exec i s = .next t ∧
        TrapFrom { s with tlb := if a.write then dirtied s e else s.tlb } t 13 251 s.pc)

/-- The two data accesses the spec calls unpredictable stop the model by name: a misaligned one, and one that several TLB
entries match, be it the only access of an instruction, a misaligned STSW with elements to store, or the first element of
a string store that several entries match (R76, R86, D2, D27; log entries 11 and 12). -/
def Obligations.UnpredictableDataAccessFaults : Prop :=
  (∀ (s : State) (i : Instr) (a : DataAccess), dataAccess s i = some a → s.holds a.pred = true →
    (a.address.toNat % a.bytes ≠ 0 → exec i s = .fault .misaligned) ∧
    (a.address.toNat % a.bytes = 0 → s.lookup (s.dataAddress a.address) = .multiple →
      exec i s = .fault .tlbMultipleMatch)) ∧
  (∀ (s : State) (p : Pred) (ra rb : Reg), s.holds p = true → s.lc ≠ 0 → (s.getX ra).toNat % 8 ≠ 0 →
    exec (.stsw p ra rb) s = .fault .misaligned) ∧
  (∀ (s : State) (p : Pred) (ra rb : Reg) (n m : Nat) (i : Instr) (pa : Nat → Word) (e : Nat → Option (Fin 64)),
    (n = 1 ∧ i = .stsb p ra rb) ∨ (n = 8 ∧ i = .stsw p ra rb) → s.holds p = true → m < s.lc.toNat →
    ElementsReach s (s.getX ra) n m pa e →
    let a := s.getX ra + BitVec.ofNat 64 (n * m)
    a.toNat % n = 0 → s.lookup (s.dataAddress a) = .multiple → exec i s = .fault .tlbMultipleMatch)

/-! ### Address formation and translation -/

/-- Address formation, in numbers: a data address adds segment register `A[63:60]` (15 included) above bit 12, modulo
2^52; a code address adds segment register 15 unless its top nibble is F; without segmentation both are unchanged (R78 to
R81). -/
def Obligations.AddressFormation : Prop :=
  ∀ (s : State) (a : Word),
    let sum (seg : Word) : Nat :=
      ((a.toNat / 4096 % 2 ^ 48 + seg.toNat / 4096) % 2 ^ 52) * 4096 + a.toNat % 4096
    (s.cfg.segmentation = true →
      (s.dataAddress a).toNat = sum (s.getSeg (BitVec.ofNat 4 (a.toNat / 2 ^ 60))) ∧
      (a.toNat / 2 ^ 60 = 15 → s.codeAddress a = a) ∧
      (a.toNat / 2 ^ 60 ≠ 15 → (s.codeAddress a).toNat = sum (s.getSeg 15))) ∧
    (s.cfg.segmentation = false → s.dataAddress a = a ∧ s.codeAddress a = a)

/-- Translation, with the page offset of `12 + 2 N` bits for a page size N of 0 to 4: an entry matches when it is valid, is
global or has the current ASID, and agrees above the offset; a single match gives its physical page number above the
offset, no match is a miss, two are unpredictable; with translation off the address passes (R84 to R88, D27). -/
def Obligations.TranslationByTheTlb : Prop :=
  ∀ (s : State) (sa : Word), s.tlbRegs.pageSize.toNat ≤ 4 →
    let offset := 12 + 2 * s.tlbRegs.pageSize.toNat
    let e (i : Fin 64) : TlbEntry := s.tlb[i.val]'i.isLt
    let hit (i : Fin 64) : Prop :=
      (e i).v = true ∧ ((e i).g = true ∨ (e i).asid = s.asid) ∧
      ∀ k < 64, offset ≤ k → (e i).vpn.getLsbD (k - 12) = sa.getLsbD k
    (s.tlbEnabled = false → s.lookup sa = .hit sa none) ∧
    (s.tlbEnabled = true →
      ((∀ i, ¬ hit i) → s.lookup sa = .miss) ∧
      (∀ i j, hit i → hit j → i ≠ j → s.lookup sa = .multiple) ∧
      (∀ i, hit i → (∀ j, hit j → j = i) →
        ∃ pa, s.lookup sa = .hit pa (some i) ∧
          ∀ k < 64, pa.getLsbD k = if k < offset then sa.getLsbD k else (e i).ppn.getLsbD (k - 12)))

/-! ### Special registers and the TLB instruction -/

/-- MFSPR of every special register number (R340, R42, R43, R47, R48, R320): the unassigned numbers read 0, 31 the
instruction's own address. -/
def Obligations.SpecialRegistersRead : Prop :=
  ∀ (s : State) (p : Pred) (n : SprNum) (rt : Reg), s.holds p = true →
    ∃ v, WritesX (.mfspr p n rt) s rt v 4 ∧
      (n = 0 → v = s.cfg.mid) ∧ (n = 1 → v = s.cfg.feat) ∧ (n = 2 → v = s.tick) ∧ (n = 3 → v = s.lc) ∧
      (n = 4 → ∀ r : PReg, v.extractLsb' (4 * r.toNat) 4 = s.getP r) ∧
      (n = 6 → v.toNat = s.asid.toNat) ∧
      (∀ r : BReg, n.toNat = 16 + r.toNat → v = s.getBr r) ∧
      (∀ r : BitVec 4, n.toNat = 32 + r.toNat → v = s.getSeg r) ∧
      (n = 5 ∨ (7 ≤ n.toNat ∧ n.toNat ≤ 15) ∨ 48 ≤ n.toNat → v = 0)

/-- MTSPR, MOVS and LDIS (prefixed or not) write the special register and nothing else (R321 to R323, R341, R25, R26). -/
def Obligations.SpecialRegistersWritten : Prop :=
  ∀ (s : State) (p : Pred) (ra : Reg) (m n : SprNum) (b : BitVec 8), s.holds p = true →
    (∃ t, exec (.mtspr p ra n) s = .next t ∧ SprWritten s t n (s.getX ra) 4) ∧
    (∃ t, exec (.movs p m n) s = .next t ∧ SprWritten s t n (s.sprRead m) 4) ∧
    (∃ t, exec (.ldis p n b) s = .next t ∧ SprWritten s t n (b.signExtend 64) 4) ∧
    (∀ i l imm, prefixParts i = some (l, imm, .ldis p n b) →
      ∃ t, exec i s = .next t ∧ SprWritten s t n imm (l + 4))

/-- TLBWI writes the entry that Index names from the holding registers, TLBRD copies it to them, TLBEN and TLBDIS switch
translation; each changes nothing else (R354, R356 to R358, D22, D29). -/
def Obligations.TlbEntryCommands : Prop :=
  ∀ (s : State) (p : Pred) (tn : BitVec 4) (r : Reg) (i : Fin 64), s.holds p = true →
    s.tlbRegs.index.toNat % 64 = i.val →
    (∃ t, exec (.tlbwi p tn r) s = .next t ∧
      t = { s with tlb := t.tlb, pc := s.pc + 4 } ∧
      ∀ j : Fin 64, t.tlb[j.val]'j.isLt =
        if j = i then
          { c := s.tlbRegs.asid.c, g := s.tlbRegs.asid.g, d := s.tlbRegs.asid.d, v := s.tlbRegs.asid.v,
            asid := s.tlbRegs.asid.asid, vpn := s.tlbRegs.virtPage.extractLsb' 0 52,
            ppn := s.tlbRegs.physPage.extractLsb' 0 52 }
        else s.tlb[j.val]'j.isLt) ∧
    (exec (.tlbrd p tn r) s = .next { s with
      pc := s.pc + 4
      tlbRegs := { s.tlbRegs with
        virtPage := (s.tlb[i.val]'i.isLt).vpn.setWidth 64
        physPage := (s.tlb[i.val]'i.isLt).ppn.setWidth 64
        asid := { asid := (s.tlb[i.val]'i.isLt).asid, c := (s.tlb[i.val]'i.isLt).c, g := (s.tlb[i.val]'i.isLt).g,
                  d := (s.tlb[i.val]'i.isLt).d, v := (s.tlb[i.val]'i.isLt).v } } }) ∧
    exec (.tlben p tn r) s = .next { s with tlbEnabled := true, pc := s.pc + 4 } ∧
    exec (.tlbdis p tn r) s = .next { s with tlbEnabled := false, pc := s.pc + 4 }

/-- TLBWR writes one entry, of a way not below Wired and of the set that the page number's three lowest significant bits
name (R355, R62, D48; which way is free: log entry 6); with Wired at 8 nothing (R355), and that Wired at 9 to 15, of which
R355 does not speak, writes nothing either is the model's choice (log entry 6). -/
def Obligations.TlbRandomWrite : Prop :=
  ∀ (s : State) (p : Pred) (tn : BitVec 4) (r : Reg), s.holds p = true → s.tlbRegs.pageSize.toNat ≤ 4 →
    (s.tlbRegs.wired.toNat < 8 →
      ∃ (w : Nat) (i : Fin 64) (t : State), s.tlbRegs.wired.toNat ≤ w ∧ w < 8 ∧
        i.val = 8 * w + s.tlbRegs.virtPage.toNat / 2 ^ (2 * s.tlbRegs.pageSize.toNat) % 8 ∧
        exec (.tlbwr p tn r) s = .next t ∧ t = { s with tlb := t.tlb, pc := s.pc + 4 } ∧
        (t.tlb[i.val]'i.isLt).vpn = s.tlbRegs.virtPage.extractLsb' 0 52 ∧
        (t.tlb[i.val]'i.isLt).ppn = s.tlbRegs.physPage.extractLsb' 0 52 ∧
        (t.tlb[i.val]'i.isLt).asid = s.tlbRegs.asid.asid ∧ (t.tlb[i.val]'i.isLt).c = s.tlbRegs.asid.c ∧
        (t.tlb[i.val]'i.isLt).g = s.tlbRegs.asid.g ∧ (t.tlb[i.val]'i.isLt).d = s.tlbRegs.asid.d ∧
        (t.tlb[i.val]'i.isLt).v = s.tlbRegs.asid.v ∧
        ∀ j : Fin 64, j ≠ i → t.tlb[j.val]'j.isLt = s.tlb[j.val]'j.isLt) ∧
    (8 ≤ s.tlbRegs.wired.toNat → exec (.tlbwr p tn r) s = .next { s with pc := s.pc + 4 })

/-- TLBPB leaves in Index the number of an entry that matches the page and ASID of the holding registers, or bit 63 alone
when none does (R353, D49; with several matches which one is free: log entry 12). -/
def Obligations.TlbProbe : Prop :=
  ∀ (s : State) (p : Pred) (tn : BitVec 4) (r : Reg), s.holds p = true → s.tlbRegs.pageSize.toNat ≤ 4 →
    let e (i : Fin 64) : TlbEntry := s.tlb[i.val]'i.isLt
    let hit (i : Fin 64) : Prop :=
      (e i).v = true ∧ ((e i).g = true ∨ (e i).asid = s.tlbRegs.asid.asid) ∧
      ∀ k < 52, 2 * s.tlbRegs.pageSize.toNat ≤ k → (e i).vpn.getLsbD k = s.tlbRegs.virtPage.getLsbD k
    ∃ v : Word,
      exec (.tlbpb p tn r) s = .next { s with tlbRegs := { s.tlbRegs with index := v }, pc := s.pc + 4 } ∧
      (((∀ i, ¬ hit i) ∧ v = 0x8000000000000000) ∨ ∃ i, hit i ∧ v = BitVec.ofNat 64 i.val)

/-- TLBRDREG and TLBWRREG of every assigned TLB register, with the stored widths; TLBRandom reads a way not below Wired
and discards writes (R351, R359, R360, R55, R62, D23, D24). The model's choices: Index stores all 64 bits and reads them
back (log entry 22, where R59 and D23 make six bits and bit 63 significant), and a page size value of 8 or more counts by
its low three bits (log entry 14). -/
def Obligations.TlbRegisterCommands : Prop :=
  ∀ (s : State) (p : Pred) (r : Reg), s.holds p = true →
    let reads (tn : BitVec 4) (v : Word) : Prop := WritesX (.tlbrdreg p tn r) s r v 4
    let v := s.getX r
    let writes (tn : BitVec 4) (q : TlbRegs) : Prop :=
      exec (.tlbwrreg p tn r) s = .next { s with tlbRegs := q, pc := s.pc + 4 }
    let q := s.tlbRegs
    reads 0 (BitVec.ofNat 64 q.wired.toNat) ∧ reads 1 q.index ∧
    (∃ w : Nat, w < 8 ∧ (q.wired.toNat < 8 → q.wired.toNat ≤ w) ∧ reads 2 (BitVec.ofNat 64 w)) ∧
    reads 3 (BitVec.ofNat 64 q.pageSize.toNat) ∧ reads 4 q.virtPage ∧ reads 5 q.physPage ∧
    reads 7 (BitVec.ofNat 64 (q.asid.asid.toNat * 256 + q.asid.c.toNat * 16 + q.asid.g.toNat * 4 +
      q.asid.d.toNat * 2 + q.asid.v.toNat)) ∧
    reads 8 q.dma ∧ reads 9 q.ima ∧ reads 10 q.pta ∧ reads 11 q.ptc ∧
    writes 0 { q with wired := v.extractLsb' 0 4 } ∧ writes 1 { q with index := v } ∧ writes 2 q ∧
    (v.toNat % 8 ≤ 4 → writes 3 { q with pageSize := v.extractLsb' 0 3 }) ∧
    writes 4 { q with virtPage := v } ∧ writes 5 { q with physPage := v } ∧
    writes 7 { q with asid := { asid := v.extractLsb' 8 8, c := v.extractLsb' 4 3, g := v.getLsbD 2,
                                d := v.getLsbD 1, v := v.getLsbD 0 } } ∧
    writes 8 { q with dma := v } ∧ writes 9 { q with ima := v } ∧ writes 10 { q with pta := v } ∧
    writes 11 { q with ptc := v }

/-- The operands the spec reserves or calls unpredictable are refused by name when the instruction executes: mb > me of a
bitfield instruction, TLB register 6 and 12 to 15, a page size above 4 (R143, R197, R351, R60; log entries 13 and 14). -/
def Obligations.ReservedOperandsAreRefused : Prop :=
  ∀ (s : State) (p : Pred) (ra rt r : Reg) (mb me : BitVec 6) (tn : BitVec 4), s.holds p = true →
    (me.toNat < mb.toNat → ∀ i ∈ [Instr.bfins p ra rt mb me, .bfset p ra rt mb me, .bfclr p ra rt mb me,
        .bfchg p ra rt mb me, .bfextu p ra rt mb me, .bfext p ra rt mb me],
      exec i s = .refused .bitfieldBounds) ∧
    (tn.toNat = 6 ∨ 12 ≤ tn.toNat →
      exec (.tlbrdreg p tn r) s = .refused .reservedTlbRegister ∧
      exec (.tlbwrreg p tn r) s = .refused .reservedTlbRegister) ∧
    (4 < (s.getX r).toNat % 8 → exec (.tlbwrreg p 3 r) s = .refused .reservedPageSize)

/-! ### What instructions leave alone -/

/-- An instruction changes no general register but its target, and register 0 always reads 0 (R20, R31). -/
def Obligations.OnlyTheTargetRegisterChanges : Prop :=
  ∀ (i : Instr) (s t : State) (r : Reg), exec i s = .next t →
    (destX i ≠ some r → t.getX r = s.getX r) ∧ t.getX 0 = 0

/-- Only stores, string stores and CAS change memory (R261, R278). -/
def Obligations.OnlyStoresChangeMemory : Prop :=
  ∀ (i : Instr) (s t : State), exec i s = .next t → mayStore s i = false → SameMemory s t

/-- Predicate registers are written by compares and by writes of special register 4 alone; the loop counter, the ASID and
the segment registers by writes of their special registers alone, but for LOOP, STSB and STSW, which count down; branch
registers other than EPC and IPC by such writes and as the link of a call (R24, R31, R45, R46, R49). -/
def Obligations.WritersOfSpecialState : Prop :=
  ∀ (i : Instr) (s t : State), exec i s = .next t →
    (isCompare i = false → destSpr i ≠ some 4 → ∀ r, t.getP r = s.getP r) ∧
    (destSpr i ≠ some 3 → (∀ p d, i ≠ .loop p d) → (∀ p a b, i ≠ .stsb p a b) → (∀ p a b, i ≠ .stsw p a b) →
      t.lc = s.lc) ∧
    (destSpr i ≠ some 6 → t.asid = s.asid) ∧
    (∀ r : BitVec 4, destSpr i ≠ some (2#4 ++ r) → t.getSeg r = s.getSeg r) ∧
    (∀ r : BReg, r ≠ 13 → r ≠ 14 → r ≠ 15 → destSpr i ≠ some (1#4 ++ r) → linkOf i ≠ some r →
      t.getBr r = s.getBr r) ∧
    t.cfg = s.cfg ∧ t.tick = s.tick ∧ t.pins = s.pins ∧ t.schedule = s.schedule ∧ t.now = s.now

/-- SR changes only by CLI, SEI, RTE, RTI and by a trap, which saves the low half and sets S and IM; the TLB changes only
by TLB commands, on a data miss in DMA, and in the D bits of entries (R38, R61, R87, R376). -/
def Obligations.WritersOfStatusAndTlbState : Prop :=
  ∀ (i : Instr) (s t : State), exec i s = .next t →
    (writesStatus i = false → t.sr = s.sr ∨
      (t.sr.extractLsb' 16 16 = s.sr.extractLsb' 0 16 ∧ t.km = true ∧ t.im = true)) ∧
    (isTlbWrite i = false →
      t.tlbEnabled = s.tlbEnabled ∧ t.tlbRegs = { s.tlbRegs with dma := t.tlbRegs.dma } ∧
      (s.tlbRegs.dma ≠ 0 → t.tlbRegs.dma = s.tlbRegs.dma) ∧ SameEntriesButDirty s t)

/-- What a step does to EPC and IPC, the branch registers 13 and 14: each keeps its value, or a trap of its kind was taken,
which leaves the return address in it (the pc of the step; in EPC one more for BRK, four more for SYS), the other of the
two alone, the old status in the backup half, S and IM set and the pc at a vector; or the instruction writes it as special
register 29 or 30 or as the link of a call. Reset writes neither (R24, R234, R341, R376, R377, R420). -/
def Obligations.WritersOfTrapLinks : Prop :=
  ∀ s t : State, step s = .next t →
    let entered (other : BReg) : Prop :=
      t.getBr other = s.getBr other ∧ t.sr.extractLsb' 16 16 = s.sr.extractLsb' 0 16 ∧ t.km = true ∧ t.im = true ∧
      ∃ v : BitVec 8, t.pc = s.getBr 12 + 16 * v.setWidth 64
    let runs (q : Instr → Prop) : Prop :=
      ∃ i len, decode (s.sample.fetchBytes s.pc maxBytes).1 = .instr i len ∧ q i
    (t.getBr 13 = s.getBr 13 ∨
      (entered 14 ∧
        (t.getBr 13 = s.pc ∨ (t.getBr 13 = s.pc + 1 ∧ runs fun i => i = .brk) ∨
          (t.getBr 13 = s.pc + 4 ∧ runs fun i => ∃ p vec, i = .sys p vec))) ∨
      runs fun i => destSpr i = some 29 ∨ linkOf i = some 13) ∧
    (t.getBr 14 = s.getBr 14 ∨ (entered 13 ∧ t.getBr 14 = s.pc) ∨
      runs fun i => destSpr i = some 30 ∨ linkOf i = some 14)

/-! ### Invariants and reset -/

/-- The reset state has the invariant, and the values R421 states: the pc at the reset vector, IM and S set and FXE clear,
translation off, registers 0 of both files 0, and branch register 15 the pc. -/
def Obligations.ResetState : Prop :=
  State.reset.Inv ∧ State.reset.pc = 0xFFFFFFFFFFFFFFF0 ∧ State.reset.im = true ∧ State.reset.km = true ∧
  State.reset.sr.getLsbD 12 = false ∧ State.reset.tlbEnabled = false ∧ State.reset.getX 0 = 0 ∧
  State.reset.getBr 0 = 0 ∧ State.reset.getBr 15 = State.reset.pc

/-- Every step keeps the invariant: memory in canonical form, the hard-wired cells at 0 (R20, R25, R26), the reserved bits
of SR clear (R40), a defined page size (R60). At a step with `rst_i` SR is as R421 says and the page size, which R421 leaves
unspecified, is one of the five defined ones by the model's choice (log entry 20). -/
def Obligations.StepKeepsInvariant : Prop :=
  ∀ s t : State, s.Inv → step s = .next t → t.Inv

/-- Once kernel mode stands in both halves of SR no step leaves it, and FXE never becomes set (R38, R396, R397). -/
def Obligations.KernelModeAndFxeStay : Prop :=
  ∀ s t : State, step s = .next t →
    (s.KernelLatched → t.KernelLatched) ∧ (s.FxeClear → t.FxeClear)

/-- The whole-machine promise of R61 and R433: whatever a step does, but for TLB commands and `rst_i`, a miss address
register that does not hold 0 keeps its address. -/
def Obligations.MissAddressesAreKept : Prop :=
  ∀ s t : State, (nextPins s.now s.schedule).rst = false → step s = .next t →
    (∀ i len, decode (s.sample.fetchBytes s.pc maxBytes).1 = .instr i len → isTlbWrite i = false) →
    (s.tlbRegs.dma ≠ 0 → t.tlbRegs.dma = s.tlbRegs.dma) ∧ (s.tlbRegs.ima ≠ 0 → t.tlbRegs.ima = s.tlbRegs.ima)
end

