-- ==== Sys2Proof/Laws/State.lean ====
section
/-!
SUPPORT. One lemma for each field and each update of the state, so that no later proof unfolds an update.
-/

namespace Sys2Proof.Machine

variable (s : State)

/-! ### setPc -/

@[simp] theorem State.setPc_x (a : Word) : (s.setPc a).x = s.x := rfl
@[simp] theorem State.setPc_br (a : Word) : (s.setPc a).br = s.br := rfl
@[simp] theorem State.setPc_pc (a : Word) : (s.setPc a).pc = a := rfl
@[simp] theorem State.setPc_p (a : Word) : (s.setPc a).p = s.p := rfl
@[simp] theorem State.setPc_sr (a : Word) : (s.setPc a).sr = s.sr := rfl
@[simp] theorem State.setPc_lc (a : Word) : (s.setPc a).lc = s.lc := rfl
@[simp] theorem State.setPc_asid (a : Word) : (s.setPc a).asid = s.asid := rfl
@[simp] theorem State.setPc_seg (a : Word) : (s.setPc a).seg = s.seg := rfl
@[simp] theorem State.setPc_tlb (a : Word) : (s.setPc a).tlb = s.tlb := rfl
@[simp] theorem State.setPc_tlbEnabled (a : Word) : (s.setPc a).tlbEnabled = s.tlbEnabled := rfl
@[simp] theorem State.setPc_tlbRegs (a : Word) : (s.setPc a).tlbRegs = s.tlbRegs := rfl
@[simp] theorem State.setPc_tick (a : Word) : (s.setPc a).tick = s.tick := rfl
@[simp] theorem State.setPc_mem (a : Word) : (s.setPc a).mem = s.mem := rfl
@[simp] theorem State.setPc_lag (a : Word) : (s.setPc a).lag = s.lag := rfl
@[simp] theorem State.setPc_pins (a : Word) : (s.setPc a).pins = s.pins := rfl
@[simp] theorem State.setPc_schedule (a : Word) : (s.setPc a).schedule = s.schedule := rfl
@[simp] theorem State.setPc_now (a : Word) : (s.setPc a).now = s.now := rfl
@[simp] theorem State.setPc_cfg (a : Word) : (s.setPc a).cfg = s.cfg := rfl

/-! ### advance -/

@[simp] theorem State.advance_x (n : Nat) : (s.advance n).x = s.x := rfl
@[simp] theorem State.advance_br (n : Nat) : (s.advance n).br = s.br := rfl
@[simp] theorem State.advance_pc (n : Nat) : (s.advance n).pc = s.pc + BitVec.ofNat 64 n := rfl
@[simp] theorem State.advance_p (n : Nat) : (s.advance n).p = s.p := rfl
@[simp] theorem State.advance_sr (n : Nat) : (s.advance n).sr = s.sr := rfl
@[simp] theorem State.advance_lc (n : Nat) : (s.advance n).lc = s.lc := rfl
@[simp] theorem State.advance_asid (n : Nat) : (s.advance n).asid = s.asid := rfl
@[simp] theorem State.advance_seg (n : Nat) : (s.advance n).seg = s.seg := rfl
@[simp] theorem State.advance_tlb (n : Nat) : (s.advance n).tlb = s.tlb := rfl
@[simp] theorem State.advance_tlbEnabled (n : Nat) : (s.advance n).tlbEnabled = s.tlbEnabled := rfl
@[simp] theorem State.advance_tlbRegs (n : Nat) : (s.advance n).tlbRegs = s.tlbRegs := rfl
@[simp] theorem State.advance_tick (n : Nat) : (s.advance n).tick = s.tick := rfl
@[simp] theorem State.advance_mem (n : Nat) : (s.advance n).mem = s.mem := rfl
@[simp] theorem State.advance_lag (n : Nat) : (s.advance n).lag = s.lag := rfl
@[simp] theorem State.advance_pins (n : Nat) : (s.advance n).pins = s.pins := rfl
@[simp] theorem State.advance_schedule (n : Nat) : (s.advance n).schedule = s.schedule := rfl
@[simp] theorem State.advance_now (n : Nat) : (s.advance n).now = s.now := rfl
@[simp] theorem State.advance_cfg (n : Nat) : (s.advance n).cfg = s.cfg := rfl

/-! ### jump -/

@[simp] theorem State.jump_x (a : Word) : (s.jump a).x = s.x := rfl
@[simp] theorem State.jump_br (a : Word) : (s.jump a).br = s.br := rfl
@[simp] theorem State.jump_pc (a : Word) : (s.jump a).pc = a := rfl
@[simp] theorem State.jump_p (a : Word) : (s.jump a).p = s.p := rfl
@[simp] theorem State.jump_sr (a : Word) : (s.jump a).sr = s.sr := rfl
@[simp] theorem State.jump_lc (a : Word) : (s.jump a).lc = s.lc := rfl
@[simp] theorem State.jump_asid (a : Word) : (s.jump a).asid = s.asid := rfl
@[simp] theorem State.jump_seg (a : Word) : (s.jump a).seg = s.seg := rfl
@[simp] theorem State.jump_tlb (a : Word) : (s.jump a).tlb = s.tlb := rfl
@[simp] theorem State.jump_tlbEnabled (a : Word) : (s.jump a).tlbEnabled = s.tlbEnabled := rfl
@[simp] theorem State.jump_tlbRegs (a : Word) : (s.jump a).tlbRegs = s.tlbRegs := rfl
@[simp] theorem State.jump_tick (a : Word) : (s.jump a).tick = s.tick := rfl
@[simp] theorem State.jump_mem (a : Word) : (s.jump a).mem = s.mem := rfl
@[simp] theorem State.jump_lag (a : Word) : (s.jump a).lag = { s.lag with drained := [] } := rfl
@[simp] theorem State.jump_pins (a : Word) : (s.jump a).pins = s.pins := rfl
@[simp] theorem State.jump_schedule (a : Word) : (s.jump a).schedule = s.schedule := rfl
@[simp] theorem State.jump_now (a : Word) : (s.jump a).now = s.now := rfl
@[simp] theorem State.jump_cfg (a : Word) : (s.jump a).cfg = s.cfg := rfl

/-! ### setP -/

@[simp] theorem State.setP_x (r : PReg) (f : BitVec 4) : (s.setP r f).x = s.x := rfl
@[simp] theorem State.setP_br (r : PReg) (f : BitVec 4) : (s.setP r f).br = s.br := rfl
@[simp] theorem State.setP_pc (r : PReg) (f : BitVec 4) : (s.setP r f).pc = s.pc := rfl
@[simp] theorem State.setP_p (r : PReg) (f : BitVec 4) : (s.setP r f).p = s.p.set r.toNat f r.isLt := rfl
@[simp] theorem State.setP_sr (r : PReg) (f : BitVec 4) : (s.setP r f).sr = s.sr := rfl
@[simp] theorem State.setP_lc (r : PReg) (f : BitVec 4) : (s.setP r f).lc = s.lc := rfl
@[simp] theorem State.setP_asid (r : PReg) (f : BitVec 4) : (s.setP r f).asid = s.asid := rfl
@[simp] theorem State.setP_seg (r : PReg) (f : BitVec 4) : (s.setP r f).seg = s.seg := rfl
@[simp] theorem State.setP_tlb (r : PReg) (f : BitVec 4) : (s.setP r f).tlb = s.tlb := rfl
@[simp] theorem State.setP_tlbEnabled (r : PReg) (f : BitVec 4) : (s.setP r f).tlbEnabled = s.tlbEnabled := rfl
@[simp] theorem State.setP_tlbRegs (r : PReg) (f : BitVec 4) : (s.setP r f).tlbRegs = s.tlbRegs := rfl
@[simp] theorem State.setP_tick (r : PReg) (f : BitVec 4) : (s.setP r f).tick = s.tick := rfl
@[simp] theorem State.setP_mem (r : PReg) (f : BitVec 4) : (s.setP r f).mem = s.mem := rfl
@[simp] theorem State.setP_lag (r : PReg) (f : BitVec 4) : (s.setP r f).lag = s.lag := rfl
@[simp] theorem State.setP_pins (r : PReg) (f : BitVec 4) : (s.setP r f).pins = s.pins := rfl
@[simp] theorem State.setP_schedule (r : PReg) (f : BitVec 4) : (s.setP r f).schedule = s.schedule := rfl
@[simp] theorem State.setP_now (r : PReg) (f : BitVec 4) : (s.setP r f).now = s.now := rfl
@[simp] theorem State.setP_cfg (r : PReg) (f : BitVec 4) : (s.setP r f).cfg = s.cfg := rfl

/-! ### setPregs -/

@[simp] theorem State.setPregs_x (v : Word) : (s.setPregs v).x = s.x := by simp only [State.setPregs]
@[simp] theorem State.setPregs_br (v : Word) : (s.setPregs v).br = s.br := by simp only [State.setPregs]
@[simp] theorem State.setPregs_pc (v : Word) : (s.setPregs v).pc = s.pc := by simp only [State.setPregs]
@[simp] theorem State.setPregs_p (v : Word) : (s.setPregs v).p = Vector.ofFn fun i : Fin 16 => v.extractLsb' (4 * i.val) 4 := rfl
@[simp] theorem State.setPregs_sr (v : Word) : (s.setPregs v).sr = s.sr := by simp only [State.setPregs]
@[simp] theorem State.setPregs_lc (v : Word) : (s.setPregs v).lc = s.lc := by simp only [State.setPregs]
@[simp] theorem State.setPregs_asid (v : Word) : (s.setPregs v).asid = s.asid := by simp only [State.setPregs]
@[simp] theorem State.setPregs_seg (v : Word) : (s.setPregs v).seg = s.seg := by simp only [State.setPregs]
@[simp] theorem State.setPregs_tlb (v : Word) : (s.setPregs v).tlb = s.tlb := by simp only [State.setPregs]
@[simp] theorem State.setPregs_tlbEnabled (v : Word) : (s.setPregs v).tlbEnabled = s.tlbEnabled := by simp only [State.setPregs]
@[simp] theorem State.setPregs_tlbRegs (v : Word) : (s.setPregs v).tlbRegs = s.tlbRegs := by simp only [State.setPregs]
@[simp] theorem State.setPregs_tick (v : Word) : (s.setPregs v).tick = s.tick := by simp only [State.setPregs]
@[simp] theorem State.setPregs_mem (v : Word) : (s.setPregs v).mem = s.mem := by simp only [State.setPregs]
@[simp] theorem State.setPregs_lag (v : Word) : (s.setPregs v).lag = s.lag := by simp only [State.setPregs]
@[simp] theorem State.setPregs_pins (v : Word) : (s.setPregs v).pins = s.pins := by simp only [State.setPregs]
@[simp] theorem State.setPregs_schedule (v : Word) : (s.setPregs v).schedule = s.schedule := by simp only [State.setPregs]
@[simp] theorem State.setPregs_now (v : Word) : (s.setPregs v).now = s.now := by simp only [State.setPregs]
@[simp] theorem State.setPregs_cfg (v : Word) : (s.setPregs v).cfg = s.cfg := by simp only [State.setPregs]

/-! ### setSeg -/

@[simp] theorem State.setSeg_x (r : BitVec 4) (v : Word) : (s.setSeg r v).x = s.x := rfl
@[simp] theorem State.setSeg_br (r : BitVec 4) (v : Word) : (s.setSeg r v).br = s.br := rfl
@[simp] theorem State.setSeg_pc (r : BitVec 4) (v : Word) : (s.setSeg r v).pc = s.pc := rfl
@[simp] theorem State.setSeg_p (r : BitVec 4) (v : Word) : (s.setSeg r v).p = s.p := rfl
@[simp] theorem State.setSeg_sr (r : BitVec 4) (v : Word) : (s.setSeg r v).sr = s.sr := rfl
@[simp] theorem State.setSeg_lc (r : BitVec 4) (v : Word) : (s.setSeg r v).lc = s.lc := rfl
@[simp] theorem State.setSeg_asid (r : BitVec 4) (v : Word) : (s.setSeg r v).asid = s.asid := rfl
@[simp] theorem State.setSeg_seg (r : BitVec 4) (v : Word) : (s.setSeg r v).seg = s.seg.set r.toNat v r.isLt := rfl
@[simp] theorem State.setSeg_tlb (r : BitVec 4) (v : Word) : (s.setSeg r v).tlb = s.tlb := rfl
@[simp] theorem State.setSeg_tlbEnabled (r : BitVec 4) (v : Word) : (s.setSeg r v).tlbEnabled = s.tlbEnabled := rfl
@[simp] theorem State.setSeg_tlbRegs (r : BitVec 4) (v : Word) : (s.setSeg r v).tlbRegs = s.tlbRegs := rfl
@[simp] theorem State.setSeg_tick (r : BitVec 4) (v : Word) : (s.setSeg r v).tick = s.tick := rfl
@[simp] theorem State.setSeg_mem (r : BitVec 4) (v : Word) : (s.setSeg r v).mem = s.mem := rfl
@[simp] theorem State.setSeg_lag (r : BitVec 4) (v : Word) : (s.setSeg r v).lag = s.lag := rfl
@[simp] theorem State.setSeg_pins (r : BitVec 4) (v : Word) : (s.setSeg r v).pins = s.pins := rfl
@[simp] theorem State.setSeg_schedule (r : BitVec 4) (v : Word) : (s.setSeg r v).schedule = s.schedule := rfl
@[simp] theorem State.setSeg_now (r : BitVec 4) (v : Word) : (s.setSeg r v).now = s.now := rfl
@[simp] theorem State.setSeg_cfg (r : BitVec 4) (v : Word) : (s.setSeg r v).cfg = s.cfg := rfl

/-! ### setLc -/

@[simp] theorem State.setLc_x (v : Word) : (s.setLc v).x = s.x := rfl
@[simp] theorem State.setLc_br (v : Word) : (s.setLc v).br = s.br := rfl
@[simp] theorem State.setLc_pc (v : Word) : (s.setLc v).pc = s.pc := rfl
@[simp] theorem State.setLc_p (v : Word) : (s.setLc v).p = s.p := rfl
@[simp] theorem State.setLc_sr (v : Word) : (s.setLc v).sr = s.sr := rfl
@[simp] theorem State.setLc_lc (v : Word) : (s.setLc v).lc = v := rfl
@[simp] theorem State.setLc_asid (v : Word) : (s.setLc v).asid = s.asid := rfl
@[simp] theorem State.setLc_seg (v : Word) : (s.setLc v).seg = s.seg := rfl
@[simp] theorem State.setLc_tlb (v : Word) : (s.setLc v).tlb = s.tlb := rfl
@[simp] theorem State.setLc_tlbEnabled (v : Word) : (s.setLc v).tlbEnabled = s.tlbEnabled := rfl
@[simp] theorem State.setLc_tlbRegs (v : Word) : (s.setLc v).tlbRegs = s.tlbRegs := rfl
@[simp] theorem State.setLc_tick (v : Word) : (s.setLc v).tick = s.tick := rfl
@[simp] theorem State.setLc_mem (v : Word) : (s.setLc v).mem = s.mem := rfl
@[simp] theorem State.setLc_lag (v : Word) : (s.setLc v).lag = s.lag := rfl
@[simp] theorem State.setLc_pins (v : Word) : (s.setLc v).pins = s.pins := rfl
@[simp] theorem State.setLc_schedule (v : Word) : (s.setLc v).schedule = s.schedule := rfl
@[simp] theorem State.setLc_now (v : Word) : (s.setLc v).now = s.now := rfl
@[simp] theorem State.setLc_cfg (v : Word) : (s.setLc v).cfg = s.cfg := rfl

/-! ### setAsid -/

@[simp] theorem State.setAsid_x (v : BitVec 8) : (s.setAsid v).x = s.x := rfl
@[simp] theorem State.setAsid_br (v : BitVec 8) : (s.setAsid v).br = s.br := rfl
@[simp] theorem State.setAsid_pc (v : BitVec 8) : (s.setAsid v).pc = s.pc := rfl
@[simp] theorem State.setAsid_p (v : BitVec 8) : (s.setAsid v).p = s.p := rfl
@[simp] theorem State.setAsid_sr (v : BitVec 8) : (s.setAsid v).sr = s.sr := rfl
@[simp] theorem State.setAsid_lc (v : BitVec 8) : (s.setAsid v).lc = s.lc := rfl
@[simp] theorem State.setAsid_asid (v : BitVec 8) : (s.setAsid v).asid = v := rfl
@[simp] theorem State.setAsid_seg (v : BitVec 8) : (s.setAsid v).seg = s.seg := rfl
@[simp] theorem State.setAsid_tlb (v : BitVec 8) : (s.setAsid v).tlb = s.tlb := rfl
@[simp] theorem State.setAsid_tlbEnabled (v : BitVec 8) : (s.setAsid v).tlbEnabled = s.tlbEnabled := rfl
@[simp] theorem State.setAsid_tlbRegs (v : BitVec 8) : (s.setAsid v).tlbRegs = s.tlbRegs := rfl
@[simp] theorem State.setAsid_tick (v : BitVec 8) : (s.setAsid v).tick = s.tick := rfl
@[simp] theorem State.setAsid_mem (v : BitVec 8) : (s.setAsid v).mem = s.mem := rfl
@[simp] theorem State.setAsid_lag (v : BitVec 8) : (s.setAsid v).lag = s.lag := rfl
@[simp] theorem State.setAsid_pins (v : BitVec 8) : (s.setAsid v).pins = s.pins := rfl
@[simp] theorem State.setAsid_schedule (v : BitVec 8) : (s.setAsid v).schedule = s.schedule := rfl
@[simp] theorem State.setAsid_now (v : BitVec 8) : (s.setAsid v).now = s.now := rfl
@[simp] theorem State.setAsid_cfg (v : BitVec 8) : (s.setAsid v).cfg = s.cfg := rfl

/-! ### setStatus -/

@[simp] theorem State.setStatus_x (b l : BitVec 16) : (s.setStatus b l).x = s.x := rfl
@[simp] theorem State.setStatus_br (b l : BitVec 16) : (s.setStatus b l).br = s.br := rfl
@[simp] theorem State.setStatus_pc (b l : BitVec 16) : (s.setStatus b l).pc = s.pc := rfl
@[simp] theorem State.setStatus_p (b l : BitVec 16) : (s.setStatus b l).p = s.p := rfl
@[simp] theorem State.setStatus_sr (b l : BitVec 16) : (s.setStatus b l).sr = b ++ l := rfl
@[simp] theorem State.setStatus_lc (b l : BitVec 16) : (s.setStatus b l).lc = s.lc := rfl
@[simp] theorem State.setStatus_asid (b l : BitVec 16) : (s.setStatus b l).asid = s.asid := rfl
@[simp] theorem State.setStatus_seg (b l : BitVec 16) : (s.setStatus b l).seg = s.seg := rfl
@[simp] theorem State.setStatus_tlb (b l : BitVec 16) : (s.setStatus b l).tlb = s.tlb := rfl
@[simp] theorem State.setStatus_tlbEnabled (b l : BitVec 16) : (s.setStatus b l).tlbEnabled = s.tlbEnabled := rfl
@[simp] theorem State.setStatus_tlbRegs (b l : BitVec 16) : (s.setStatus b l).tlbRegs = s.tlbRegs := rfl
@[simp] theorem State.setStatus_tick (b l : BitVec 16) : (s.setStatus b l).tick = s.tick := rfl
@[simp] theorem State.setStatus_mem (b l : BitVec 16) : (s.setStatus b l).mem = s.mem := rfl
@[simp] theorem State.setStatus_lag (b l : BitVec 16) : (s.setStatus b l).lag = s.lag := rfl
@[simp] theorem State.setStatus_pins (b l : BitVec 16) : (s.setStatus b l).pins = s.pins := rfl
@[simp] theorem State.setStatus_schedule (b l : BitVec 16) : (s.setStatus b l).schedule = s.schedule := rfl
@[simp] theorem State.setStatus_now (b l : BitVec 16) : (s.setStatus b l).now = s.now := rfl
@[simp] theorem State.setStatus_cfg (b l : BitVec 16) : (s.setStatus b l).cfg = s.cfg := rfl

/-! ### setTlb -/

@[simp] theorem State.setTlb_x (i : Fin 64) (e : TlbEntry) : (s.setTlb i e).x = s.x := rfl
@[simp] theorem State.setTlb_br (i : Fin 64) (e : TlbEntry) : (s.setTlb i e).br = s.br := rfl
@[simp] theorem State.setTlb_pc (i : Fin 64) (e : TlbEntry) : (s.setTlb i e).pc = s.pc := rfl
@[simp] theorem State.setTlb_p (i : Fin 64) (e : TlbEntry) : (s.setTlb i e).p = s.p := rfl
@[simp] theorem State.setTlb_sr (i : Fin 64) (e : TlbEntry) : (s.setTlb i e).sr = s.sr := rfl
@[simp] theorem State.setTlb_lc (i : Fin 64) (e : TlbEntry) : (s.setTlb i e).lc = s.lc := rfl
@[simp] theorem State.setTlb_asid (i : Fin 64) (e : TlbEntry) : (s.setTlb i e).asid = s.asid := rfl
@[simp] theorem State.setTlb_seg (i : Fin 64) (e : TlbEntry) : (s.setTlb i e).seg = s.seg := rfl
@[simp] theorem State.setTlb_tlb (i : Fin 64) (e : TlbEntry) : (s.setTlb i e).tlb = s.tlb.set i.val e i.isLt := rfl
@[simp] theorem State.setTlb_tlbEnabled (i : Fin 64) (e : TlbEntry) : (s.setTlb i e).tlbEnabled = s.tlbEnabled := rfl
@[simp] theorem State.setTlb_tlbRegs (i : Fin 64) (e : TlbEntry) : (s.setTlb i e).tlbRegs = s.tlbRegs := rfl
@[simp] theorem State.setTlb_tick (i : Fin 64) (e : TlbEntry) : (s.setTlb i e).tick = s.tick := rfl
@[simp] theorem State.setTlb_mem (i : Fin 64) (e : TlbEntry) : (s.setTlb i e).mem = s.mem := rfl
@[simp] theorem State.setTlb_lag (i : Fin 64) (e : TlbEntry) : (s.setTlb i e).lag = s.lag := rfl
@[simp] theorem State.setTlb_pins (i : Fin 64) (e : TlbEntry) : (s.setTlb i e).pins = s.pins := rfl
@[simp] theorem State.setTlb_schedule (i : Fin 64) (e : TlbEntry) : (s.setTlb i e).schedule = s.schedule := rfl
@[simp] theorem State.setTlb_now (i : Fin 64) (e : TlbEntry) : (s.setTlb i e).now = s.now := rfl
@[simp] theorem State.setTlb_cfg (i : Fin 64) (e : TlbEntry) : (s.setTlb i e).cfg = s.cfg := rfl

/-! ### markDirty -/

@[simp] theorem State.markDirty_x (i : Fin 64) : (s.markDirty i).x = s.x := rfl
@[simp] theorem State.markDirty_br (i : Fin 64) : (s.markDirty i).br = s.br := rfl
@[simp] theorem State.markDirty_pc (i : Fin 64) : (s.markDirty i).pc = s.pc := rfl
@[simp] theorem State.markDirty_p (i : Fin 64) : (s.markDirty i).p = s.p := rfl
@[simp] theorem State.markDirty_sr (i : Fin 64) : (s.markDirty i).sr = s.sr := rfl
@[simp] theorem State.markDirty_lc (i : Fin 64) : (s.markDirty i).lc = s.lc := rfl
@[simp] theorem State.markDirty_asid (i : Fin 64) : (s.markDirty i).asid = s.asid := rfl
@[simp] theorem State.markDirty_seg (i : Fin 64) : (s.markDirty i).seg = s.seg := rfl
@[simp] theorem State.markDirty_tlb (i : Fin 64) : (s.markDirty i).tlb = s.tlb.set i.val { s.tlb[i.val]'i.isLt with d := true } i.isLt := rfl
@[simp] theorem State.markDirty_tlbEnabled (i : Fin 64) : (s.markDirty i).tlbEnabled = s.tlbEnabled := rfl
@[simp] theorem State.markDirty_tlbRegs (i : Fin 64) : (s.markDirty i).tlbRegs = s.tlbRegs := rfl
@[simp] theorem State.markDirty_tick (i : Fin 64) : (s.markDirty i).tick = s.tick := rfl
@[simp] theorem State.markDirty_mem (i : Fin 64) : (s.markDirty i).mem = s.mem := rfl
@[simp] theorem State.markDirty_lag (i : Fin 64) : (s.markDirty i).lag = s.lag := rfl
@[simp] theorem State.markDirty_pins (i : Fin 64) : (s.markDirty i).pins = s.pins := rfl
@[simp] theorem State.markDirty_schedule (i : Fin 64) : (s.markDirty i).schedule = s.schedule := rfl
@[simp] theorem State.markDirty_now (i : Fin 64) : (s.markDirty i).now = s.now := rfl
@[simp] theorem State.markDirty_cfg (i : Fin 64) : (s.markDirty i).cfg = s.cfg := rfl

/-! ### setTlbRegs -/

@[simp] theorem State.setTlbRegs_x (r : TlbRegs) : (s.setTlbRegs r).x = s.x := rfl
@[simp] theorem State.setTlbRegs_br (r : TlbRegs) : (s.setTlbRegs r).br = s.br := rfl
@[simp] theorem State.setTlbRegs_pc (r : TlbRegs) : (s.setTlbRegs r).pc = s.pc := rfl
@[simp] theorem State.setTlbRegs_p (r : TlbRegs) : (s.setTlbRegs r).p = s.p := rfl
@[simp] theorem State.setTlbRegs_sr (r : TlbRegs) : (s.setTlbRegs r).sr = s.sr := rfl
@[simp] theorem State.setTlbRegs_lc (r : TlbRegs) : (s.setTlbRegs r).lc = s.lc := rfl
@[simp] theorem State.setTlbRegs_asid (r : TlbRegs) : (s.setTlbRegs r).asid = s.asid := rfl
@[simp] theorem State.setTlbRegs_seg (r : TlbRegs) : (s.setTlbRegs r).seg = s.seg := rfl
@[simp] theorem State.setTlbRegs_tlb (r : TlbRegs) : (s.setTlbRegs r).tlb = s.tlb := rfl
@[simp] theorem State.setTlbRegs_tlbEnabled (r : TlbRegs) : (s.setTlbRegs r).tlbEnabled = s.tlbEnabled := rfl
@[simp] theorem State.setTlbRegs_tlbRegs (r : TlbRegs) : (s.setTlbRegs r).tlbRegs = r := rfl
@[simp] theorem State.setTlbRegs_tick (r : TlbRegs) : (s.setTlbRegs r).tick = s.tick := rfl
@[simp] theorem State.setTlbRegs_mem (r : TlbRegs) : (s.setTlbRegs r).mem = s.mem := rfl
@[simp] theorem State.setTlbRegs_lag (r : TlbRegs) : (s.setTlbRegs r).lag = s.lag := rfl
@[simp] theorem State.setTlbRegs_pins (r : TlbRegs) : (s.setTlbRegs r).pins = s.pins := rfl
@[simp] theorem State.setTlbRegs_schedule (r : TlbRegs) : (s.setTlbRegs r).schedule = s.schedule := rfl
@[simp] theorem State.setTlbRegs_now (r : TlbRegs) : (s.setTlbRegs r).now = s.now := rfl
@[simp] theorem State.setTlbRegs_cfg (r : TlbRegs) : (s.setTlbRegs r).cfg = s.cfg := rfl

/-! ### setTlbEnabled -/

@[simp] theorem State.setTlbEnabled_x (b : Bool) : (s.setTlbEnabled b).x = s.x := rfl
@[simp] theorem State.setTlbEnabled_br (b : Bool) : (s.setTlbEnabled b).br = s.br := rfl
@[simp] theorem State.setTlbEnabled_pc (b : Bool) : (s.setTlbEnabled b).pc = s.pc := rfl
@[simp] theorem State.setTlbEnabled_p (b : Bool) : (s.setTlbEnabled b).p = s.p := rfl
@[simp] theorem State.setTlbEnabled_sr (b : Bool) : (s.setTlbEnabled b).sr = s.sr := rfl
@[simp] theorem State.setTlbEnabled_lc (b : Bool) : (s.setTlbEnabled b).lc = s.lc := rfl
@[simp] theorem State.setTlbEnabled_asid (b : Bool) : (s.setTlbEnabled b).asid = s.asid := rfl
@[simp] theorem State.setTlbEnabled_seg (b : Bool) : (s.setTlbEnabled b).seg = s.seg := rfl
@[simp] theorem State.setTlbEnabled_tlb (b : Bool) : (s.setTlbEnabled b).tlb = s.tlb := rfl
@[simp] theorem State.setTlbEnabled_tlbEnabled (b : Bool) : (s.setTlbEnabled b).tlbEnabled = b := rfl
@[simp] theorem State.setTlbEnabled_tlbRegs (b : Bool) : (s.setTlbEnabled b).tlbRegs = s.tlbRegs := rfl
@[simp] theorem State.setTlbEnabled_tick (b : Bool) : (s.setTlbEnabled b).tick = s.tick := rfl
@[simp] theorem State.setTlbEnabled_mem (b : Bool) : (s.setTlbEnabled b).mem = s.mem := rfl
@[simp] theorem State.setTlbEnabled_lag (b : Bool) : (s.setTlbEnabled b).lag = s.lag := rfl
@[simp] theorem State.setTlbEnabled_pins (b : Bool) : (s.setTlbEnabled b).pins = s.pins := rfl
@[simp] theorem State.setTlbEnabled_schedule (b : Bool) : (s.setTlbEnabled b).schedule = s.schedule := rfl
@[simp] theorem State.setTlbEnabled_now (b : Bool) : (s.setTlbEnabled b).now = s.now := rfl
@[simp] theorem State.setTlbEnabled_cfg (b : Bool) : (s.setTlbEnabled b).cfg = s.cfg := rfl

/-! ### drain -/

@[simp] theorem State.drain_x : (s.drain).x = s.x := rfl
@[simp] theorem State.drain_br : (s.drain).br = s.br := rfl
@[simp] theorem State.drain_pc : (s.drain).pc = s.pc := rfl
@[simp] theorem State.drain_p : (s.drain).p = s.p := rfl
@[simp] theorem State.drain_sr : (s.drain).sr = s.sr := rfl
@[simp] theorem State.drain_lc : (s.drain).lc = s.lc := rfl
@[simp] theorem State.drain_asid : (s.drain).asid = s.asid := rfl
@[simp] theorem State.drain_seg : (s.drain).seg = s.seg := rfl
@[simp] theorem State.drain_tlb : (s.drain).tlb = s.tlb := rfl
@[simp] theorem State.drain_tlbEnabled : (s.drain).tlbEnabled = s.tlbEnabled := rfl
@[simp] theorem State.drain_tlbRegs : (s.drain).tlbRegs = s.tlbRegs := rfl
@[simp] theorem State.drain_tick : (s.drain).tick = s.tick := rfl
@[simp] theorem State.drain_mem : (s.drain).mem = s.mem := rfl
@[simp] theorem State.drain_lag : (s.drain).lag = { overwritten := [], drained := s.lag.overwritten ++ s.lag.drained } := rfl
@[simp] theorem State.drain_pins : (s.drain).pins = s.pins := rfl
@[simp] theorem State.drain_schedule : (s.drain).schedule = s.schedule := rfl
@[simp] theorem State.drain_now : (s.drain).now = s.now := rfl
@[simp] theorem State.drain_cfg : (s.drain).cfg = s.cfg := rfl

/-! ### sample -/

@[simp] theorem State.sample_x : (s.sample).x = s.x := rfl
@[simp] theorem State.sample_br : (s.sample).br = s.br := rfl
@[simp] theorem State.sample_pc : (s.sample).pc = s.pc := rfl
@[simp] theorem State.sample_p : (s.sample).p = s.p := rfl
@[simp] theorem State.sample_sr : (s.sample).sr = s.sr := rfl
@[simp] theorem State.sample_lc : (s.sample).lc = s.lc := rfl
@[simp] theorem State.sample_asid : (s.sample).asid = s.asid := rfl
@[simp] theorem State.sample_seg : (s.sample).seg = s.seg := rfl
@[simp] theorem State.sample_tlb : (s.sample).tlb = s.tlb := rfl
@[simp] theorem State.sample_tlbEnabled : (s.sample).tlbEnabled = s.tlbEnabled := rfl
@[simp] theorem State.sample_tlbRegs : (s.sample).tlbRegs = s.tlbRegs := rfl
@[simp] theorem State.sample_tick : (s.sample).tick = s.tick + Config.tickAdvance s.now := rfl
@[simp] theorem State.sample_mem : (s.sample).mem = s.mem := rfl
@[simp] theorem State.sample_lag : (s.sample).lag = s.lag := rfl
@[simp] theorem State.sample_pins : (s.sample).pins = nextPins s.now s.schedule := rfl
@[simp] theorem State.sample_schedule : (s.sample).schedule = s.schedule.tail := rfl
@[simp] theorem State.sample_now : (s.sample).now = s.now + 1 := rfl
@[simp] theorem State.sample_cfg : (s.sample).cfg = s.cfg := rfl

/-! ### warmReset -/

@[simp] theorem State.warmReset_pc : s.warmReset.pc = resetVector := rfl
@[simp] theorem State.warmReset_sr : s.warmReset.sr = s.statusBackup ++ resetStatus := rfl
@[simp] theorem State.warmReset_tlbEnabled : s.warmReset.tlbEnabled = false := rfl
@[simp] theorem State.warmReset_tlbRegs : s.warmReset.tlbRegs = freeTlbRegs s.now := rfl
@[simp] theorem State.warmReset_mem : s.warmReset.mem = s.mem := by simp only [State.warmReset]
@[simp] theorem State.warmReset_lag : s.warmReset.lag = s.lag := by simp only [State.warmReset]
@[simp] theorem State.warmReset_pins : s.warmReset.pins = s.pins := by simp only [State.warmReset]
@[simp] theorem State.warmReset_schedule : s.warmReset.schedule = s.schedule := by simp only [State.warmReset]
@[simp] theorem State.warmReset_now : s.warmReset.now = s.now := by simp only [State.warmReset]
@[simp] theorem State.warmReset_cfg : s.warmReset.cfg = s.cfg := by simp only [State.warmReset]

/-! ### setX -/

@[simp] theorem State.setX_br (r : Reg) (v : Word) : (s.setX r v).br = s.br := by unfold State.setX; split <;> rfl
@[simp] theorem State.setX_pc (r : Reg) (v : Word) : (s.setX r v).pc = s.pc := by unfold State.setX; split <;> rfl
@[simp] theorem State.setX_p (r : Reg) (v : Word) : (s.setX r v).p = s.p := by unfold State.setX; split <;> rfl
@[simp] theorem State.setX_sr (r : Reg) (v : Word) : (s.setX r v).sr = s.sr := by unfold State.setX; split <;> rfl
@[simp] theorem State.setX_lc (r : Reg) (v : Word) : (s.setX r v).lc = s.lc := by unfold State.setX; split <;> rfl
@[simp] theorem State.setX_asid (r : Reg) (v : Word) : (s.setX r v).asid = s.asid := by unfold State.setX; split <;> rfl
@[simp] theorem State.setX_seg (r : Reg) (v : Word) : (s.setX r v).seg = s.seg := by unfold State.setX; split <;> rfl
@[simp] theorem State.setX_tlb (r : Reg) (v : Word) : (s.setX r v).tlb = s.tlb := by unfold State.setX; split <;> rfl
@[simp] theorem State.setX_tlbEnabled (r : Reg) (v : Word) : (s.setX r v).tlbEnabled = s.tlbEnabled := by unfold State.setX; split <;> rfl
@[simp] theorem State.setX_tlbRegs (r : Reg) (v : Word) : (s.setX r v).tlbRegs = s.tlbRegs := by unfold State.setX; split <;> rfl
@[simp] theorem State.setX_tick (r : Reg) (v : Word) : (s.setX r v).tick = s.tick := by unfold State.setX; split <;> rfl
@[simp] theorem State.setX_mem (r : Reg) (v : Word) : (s.setX r v).mem = s.mem := by unfold State.setX; split <;> rfl
@[simp] theorem State.setX_lag (r : Reg) (v : Word) : (s.setX r v).lag = s.lag := by unfold State.setX; split <;> rfl
@[simp] theorem State.setX_pins (r : Reg) (v : Word) : (s.setX r v).pins = s.pins := by unfold State.setX; split <;> rfl
@[simp] theorem State.setX_schedule (r : Reg) (v : Word) : (s.setX r v).schedule = s.schedule := by unfold State.setX; split <;> rfl
@[simp] theorem State.setX_now (r : Reg) (v : Word) : (s.setX r v).now = s.now := by unfold State.setX; split <;> rfl
@[simp] theorem State.setX_cfg (r : Reg) (v : Word) : (s.setX r v).cfg = s.cfg := by unfold State.setX; split <;> rfl

/-! ### setBr -/

@[simp] theorem State.setBr_x (r : BReg) (v : Word) : (s.setBr r v).x = s.x := by unfold State.setBr; split <;> rfl
@[simp] theorem State.setBr_pc (r : BReg) (v : Word) : (s.setBr r v).pc = s.pc := by unfold State.setBr; split <;> rfl
@[simp] theorem State.setBr_p (r : BReg) (v : Word) : (s.setBr r v).p = s.p := by unfold State.setBr; split <;> rfl
@[simp] theorem State.setBr_sr (r : BReg) (v : Word) : (s.setBr r v).sr = s.sr := by unfold State.setBr; split <;> rfl
@[simp] theorem State.setBr_lc (r : BReg) (v : Word) : (s.setBr r v).lc = s.lc := by unfold State.setBr; split <;> rfl
@[simp] theorem State.setBr_asid (r : BReg) (v : Word) : (s.setBr r v).asid = s.asid := by unfold State.setBr; split <;> rfl
@[simp] theorem State.setBr_seg (r : BReg) (v : Word) : (s.setBr r v).seg = s.seg := by unfold State.setBr; split <;> rfl
@[simp] theorem State.setBr_tlb (r : BReg) (v : Word) : (s.setBr r v).tlb = s.tlb := by unfold State.setBr; split <;> rfl
@[simp] theorem State.setBr_tlbEnabled (r : BReg) (v : Word) : (s.setBr r v).tlbEnabled = s.tlbEnabled := by unfold State.setBr; split <;> rfl
@[simp] theorem State.setBr_tlbRegs (r : BReg) (v : Word) : (s.setBr r v).tlbRegs = s.tlbRegs := by unfold State.setBr; split <;> rfl
@[simp] theorem State.setBr_tick (r : BReg) (v : Word) : (s.setBr r v).tick = s.tick := by unfold State.setBr; split <;> rfl
@[simp] theorem State.setBr_mem (r : BReg) (v : Word) : (s.setBr r v).mem = s.mem := by unfold State.setBr; split <;> rfl
@[simp] theorem State.setBr_lag (r : BReg) (v : Word) : (s.setBr r v).lag = s.lag := by unfold State.setBr; split <;> rfl
@[simp] theorem State.setBr_pins (r : BReg) (v : Word) : (s.setBr r v).pins = s.pins := by unfold State.setBr; split <;> rfl
@[simp] theorem State.setBr_schedule (r : BReg) (v : Word) : (s.setBr r v).schedule = s.schedule := by unfold State.setBr; split <;> rfl
@[simp] theorem State.setBr_now (r : BReg) (v : Word) : (s.setBr r v).now = s.now := by unfold State.setBr; split <;> rfl
@[simp] theorem State.setBr_cfg (r : BReg) (v : Word) : (s.setBr r v).cfg = s.cfg := by unfold State.setBr; split <;> rfl

/-! ### recordDataMiss -/

@[simp] theorem State.recordDataMiss_x (a : Word) : (s.recordDataMiss a).x = s.x := by unfold State.recordDataMiss; split <;> rfl
@[simp] theorem State.recordDataMiss_br (a : Word) : (s.recordDataMiss a).br = s.br := by unfold State.recordDataMiss; split <;> rfl
@[simp] theorem State.recordDataMiss_pc (a : Word) : (s.recordDataMiss a).pc = s.pc := by unfold State.recordDataMiss; split <;> rfl
@[simp] theorem State.recordDataMiss_p (a : Word) : (s.recordDataMiss a).p = s.p := by unfold State.recordDataMiss; split <;> rfl
@[simp] theorem State.recordDataMiss_sr (a : Word) : (s.recordDataMiss a).sr = s.sr := by unfold State.recordDataMiss; split <;> rfl
@[simp] theorem State.recordDataMiss_lc (a : Word) : (s.recordDataMiss a).lc = s.lc := by unfold State.recordDataMiss; split <;> rfl
@[simp] theorem State.recordDataMiss_asid (a : Word) : (s.recordDataMiss a).asid = s.asid := by unfold State.recordDataMiss; split <;> rfl
@[simp] theorem State.recordDataMiss_seg (a : Word) : (s.recordDataMiss a).seg = s.seg := by unfold State.recordDataMiss; split <;> rfl
@[simp] theorem State.recordDataMiss_tlb (a : Word) : (s.recordDataMiss a).tlb = s.tlb := by unfold State.recordDataMiss; split <;> rfl
@[simp] theorem State.recordDataMiss_tlbEnabled (a : Word) : (s.recordDataMiss a).tlbEnabled = s.tlbEnabled := by unfold State.recordDataMiss; split <;> rfl
@[simp] theorem State.recordDataMiss_tick (a : Word) : (s.recordDataMiss a).tick = s.tick := by unfold State.recordDataMiss; split <;> rfl
@[simp] theorem State.recordDataMiss_mem (a : Word) : (s.recordDataMiss a).mem = s.mem := by unfold State.recordDataMiss; split <;> rfl
@[simp] theorem State.recordDataMiss_lag (a : Word) : (s.recordDataMiss a).lag = s.lag := by unfold State.recordDataMiss; split <;> rfl
@[simp] theorem State.recordDataMiss_pins (a : Word) : (s.recordDataMiss a).pins = s.pins := by unfold State.recordDataMiss; split <;> rfl
@[simp] theorem State.recordDataMiss_schedule (a : Word) : (s.recordDataMiss a).schedule = s.schedule := by unfold State.recordDataMiss; split <;> rfl
@[simp] theorem State.recordDataMiss_now (a : Word) : (s.recordDataMiss a).now = s.now := by unfold State.recordDataMiss; split <;> rfl
@[simp] theorem State.recordDataMiss_cfg (a : Word) : (s.recordDataMiss a).cfg = s.cfg := by unfold State.recordDataMiss; split <;> rfl

/-! ### recordCodeMiss -/

@[simp] theorem State.recordCodeMiss_x (a : Word) : (s.recordCodeMiss a).x = s.x := by unfold State.recordCodeMiss; split <;> rfl
@[simp] theorem State.recordCodeMiss_br (a : Word) : (s.recordCodeMiss a).br = s.br := by unfold State.recordCodeMiss; split <;> rfl
@[simp] theorem State.recordCodeMiss_pc (a : Word) : (s.recordCodeMiss a).pc = s.pc := by unfold State.recordCodeMiss; split <;> rfl
@[simp] theorem State.recordCodeMiss_p (a : Word) : (s.recordCodeMiss a).p = s.p := by unfold State.recordCodeMiss; split <;> rfl
@[simp] theorem State.recordCodeMiss_sr (a : Word) : (s.recordCodeMiss a).sr = s.sr := by unfold State.recordCodeMiss; split <;> rfl
@[simp] theorem State.recordCodeMiss_lc (a : Word) : (s.recordCodeMiss a).lc = s.lc := by unfold State.recordCodeMiss; split <;> rfl
@[simp] theorem State.recordCodeMiss_asid (a : Word) : (s.recordCodeMiss a).asid = s.asid := by unfold State.recordCodeMiss; split <;> rfl
@[simp] theorem State.recordCodeMiss_seg (a : Word) : (s.recordCodeMiss a).seg = s.seg := by unfold State.recordCodeMiss; split <;> rfl
@[simp] theorem State.recordCodeMiss_tlb (a : Word) : (s.recordCodeMiss a).tlb = s.tlb := by unfold State.recordCodeMiss; split <;> rfl
@[simp] theorem State.recordCodeMiss_tlbEnabled (a : Word) : (s.recordCodeMiss a).tlbEnabled = s.tlbEnabled := by unfold State.recordCodeMiss; split <;> rfl
@[simp] theorem State.recordCodeMiss_tick (a : Word) : (s.recordCodeMiss a).tick = s.tick := by unfold State.recordCodeMiss; split <;> rfl
@[simp] theorem State.recordCodeMiss_mem (a : Word) : (s.recordCodeMiss a).mem = s.mem := by unfold State.recordCodeMiss; split <;> rfl
@[simp] theorem State.recordCodeMiss_lag (a : Word) : (s.recordCodeMiss a).lag = s.lag := by unfold State.recordCodeMiss; split <;> rfl
@[simp] theorem State.recordCodeMiss_pins (a : Word) : (s.recordCodeMiss a).pins = s.pins := by unfold State.recordCodeMiss; split <;> rfl
@[simp] theorem State.recordCodeMiss_schedule (a : Word) : (s.recordCodeMiss a).schedule = s.schedule := by unfold State.recordCodeMiss; split <;> rfl
@[simp] theorem State.recordCodeMiss_now (a : Word) : (s.recordCodeMiss a).now = s.now := by unfold State.recordCodeMiss; split <;> rfl
@[simp] theorem State.recordCodeMiss_cfg (a : Word) : (s.recordCodeMiss a).cfg = s.cfg := by unfold State.recordCodeMiss; split <;> rfl

/-! ### The halves of the status register -/

/-- The half in force of a status register put together from its halves. -/
@[simp] theorem status_low (b l : BitVec 16) : (b ++ l : BitVec 32).extractLsb' 0 16 = l :=
  BitVec.extractLsb'_append_eq_right

/-- The backup half of a status register put together from its halves. -/
@[simp] theorem status_backup (b l : BitVec 16) : (b ++ l : BitVec 32).extractLsb' 16 16 = b :=
  BitVec.extractLsb'_append_eq_left

/-- One bit of a status register put together from its halves. -/
theorem status_bit (b l : BitVec 16) (k : Nat) :
    (b ++ l : BitVec 32).getLsbD k = if k < 16 then l.getLsbD k else b.getLsbD (k - 16) :=
  BitVec.getLsbD_append

/-- What entering a trap leaves in the bits of the half in force: S and IM set (60_exceptions.md R376). -/
theorem entered_bit (x : BitVec 16) (k : Nat) (hk : k < 16) :
    (x ||| 0xA000#16).getLsbD k = (x.getLsbD k || decide (k = 15) || decide (k = 13)) := by
  rw [BitVec.getLsbD_or, Bool.or_assoc]
  congr 1
  revert hk; revert k; decide

/-! ### enter and leave -/

@[simp] theorem State.enter_x (k : TrapKind) (v : BitVec 8) (ret : Word) :
    (s.enter k v ret).x = s.x := by simp [State.enter]
@[simp] theorem State.enter_br (k : TrapKind) (v : BitVec 8) (ret : Word) :
    (s.enter k v ret).br = (s.setBr k.link ret).br := rfl
@[simp] theorem State.enter_pc (k : TrapKind) (v : BitVec 8) (ret : Word) :
    (s.enter k v ret).pc = s.getBr 12 + 16 * v.setWidth 64 := by cases k <;> simp [State.enter, State.vectorAddress, State.getBr, State.setBr, TrapKind.link]
@[simp] theorem State.enter_p (k : TrapKind) (v : BitVec 8) (ret : Word) :
    (s.enter k v ret).p = s.p := by simp [State.enter]
@[simp] theorem State.enter_sr (k : TrapKind) (v : BitVec 8) (ret : Word) :
    (s.enter k v ret).sr = s.statusLow ++ (s.statusLow ||| 0xA000#16) := rfl
@[simp] theorem State.enter_lc (k : TrapKind) (v : BitVec 8) (ret : Word) :
    (s.enter k v ret).lc = s.lc := by simp [State.enter]
@[simp] theorem State.enter_asid (k : TrapKind) (v : BitVec 8) (ret : Word) :
    (s.enter k v ret).asid = s.asid := by simp [State.enter]
@[simp] theorem State.enter_seg (k : TrapKind) (v : BitVec 8) (ret : Word) :
    (s.enter k v ret).seg = s.seg := by simp [State.enter]
@[simp] theorem State.enter_tlb (k : TrapKind) (v : BitVec 8) (ret : Word) :
    (s.enter k v ret).tlb = s.tlb := by simp [State.enter]
@[simp] theorem State.enter_tlbEnabled (k : TrapKind) (v : BitVec 8) (ret : Word) :
    (s.enter k v ret).tlbEnabled = s.tlbEnabled := by simp [State.enter]
@[simp] theorem State.enter_tlbRegs (k : TrapKind) (v : BitVec 8) (ret : Word) :
    (s.enter k v ret).tlbRegs = s.tlbRegs := by simp [State.enter]
@[simp] theorem State.enter_tick (k : TrapKind) (v : BitVec 8) (ret : Word) :
    (s.enter k v ret).tick = s.tick := by simp [State.enter]
@[simp] theorem State.enter_mem (k : TrapKind) (v : BitVec 8) (ret : Word) :
    (s.enter k v ret).mem = s.mem := by simp [State.enter]
@[simp] theorem State.enter_lag (k : TrapKind) (v : BitVec 8) (ret : Word) :
    (s.enter k v ret).lag = s.lag := by simp [State.enter]
@[simp] theorem State.enter_pins (k : TrapKind) (v : BitVec 8) (ret : Word) :
    (s.enter k v ret).pins = s.pins := by simp [State.enter]
@[simp] theorem State.enter_schedule (k : TrapKind) (v : BitVec 8) (ret : Word) :
    (s.enter k v ret).schedule = s.schedule := by simp [State.enter]
@[simp] theorem State.enter_now (k : TrapKind) (v : BitVec 8) (ret : Word) :
    (s.enter k v ret).now = s.now := by simp [State.enter]
@[simp] theorem State.enter_cfg (k : TrapKind) (v : BitVec 8) (ret : Word) :
    (s.enter k v ret).cfg = s.cfg := by simp [State.enter]

@[simp] theorem State.leave_x (k : TrapKind) : (s.leave k).x = s.x := by cases k <;> rfl
@[simp] theorem State.leave_br (k : TrapKind) : (s.leave k).br = s.br := by cases k <;> rfl
@[simp] theorem State.leave_p (k : TrapKind) : (s.leave k).p = s.p := by cases k <;> rfl
@[simp] theorem State.leave_lc (k : TrapKind) : (s.leave k).lc = s.lc := by cases k <;> rfl
@[simp] theorem State.leave_asid (k : TrapKind) : (s.leave k).asid = s.asid := by cases k <;> rfl
@[simp] theorem State.leave_seg (k : TrapKind) : (s.leave k).seg = s.seg := by cases k <;> rfl
@[simp] theorem State.leave_tlb (k : TrapKind) : (s.leave k).tlb = s.tlb := by cases k <;> rfl
@[simp] theorem State.leave_tlbEnabled (k : TrapKind) : (s.leave k).tlbEnabled = s.tlbEnabled := by cases k <;> rfl
@[simp] theorem State.leave_tlbRegs (k : TrapKind) : (s.leave k).tlbRegs = s.tlbRegs := by cases k <;> rfl
@[simp] theorem State.leave_tick (k : TrapKind) : (s.leave k).tick = s.tick := by cases k <;> rfl
@[simp] theorem State.leave_mem (k : TrapKind) : (s.leave k).mem = s.mem := by cases k <;> rfl
@[simp] theorem State.leave_pins (k : TrapKind) : (s.leave k).pins = s.pins := by cases k <;> rfl
@[simp] theorem State.leave_schedule (k : TrapKind) : (s.leave k).schedule = s.schedule := by cases k <;> rfl
@[simp] theorem State.leave_now (k : TrapKind) : (s.leave k).now = s.now := by cases k <;> rfl
@[simp] theorem State.leave_cfg (k : TrapKind) : (s.leave k).cfg = s.cfg := by cases k <;> rfl
@[simp] theorem State.leave_pc (k : TrapKind) : (s.leave k).pc = s.getBr k.link := by cases k <;> rfl
@[simp] theorem State.leave_lag (k : TrapKind) : (s.leave k).lag = { s.lag with drained := [] } := by cases k <;> rfl
@[simp] theorem State.leave_exception_sr : (s.leave .exception).sr = s.statusBackup ++ s.statusBackup := rfl
@[simp] theorem State.leave_interrupt_sr :
    (s.leave .interrupt).sr = s.statusBackup ++ (s.statusBackup &&& 0x7FFF#16) := rfl

/-! ### Reads of registers after an update -/

@[simp] theorem State.getX_zero : s.getX 0#8 = 0#64 := rfl

/-- Reading a general register other than 0 reads its cell. -/
theorem State.getX_cell (r : Reg) (h : r ≠ 0) : s.getX r = s.x[r.toNat]'r.isLt := if_neg h

/-- Writing a general register other than 0 writes its cell. -/
theorem State.setX_x (r : Reg) (v : Word) (h : r ≠ 0) : (s.setX r v).x = s.x.set r.toNat v r.isLt := by
  unfold State.setX; rw [if_neg h]

/-- A write to register 0 is discarded. -/
theorem State.setX_discard (v : Word) : s.setX 0 v = s := rfl

theorem State.getX_setX (r q : Reg) (v : Word) :
    (s.setX r v).getX q = if q = r ∧ q ≠ 0 then v else s.getX q := by
  by_cases hq : q = 0
  · rw [if_neg fun h => h.2 hq]; subst hq; rfl
  · by_cases hr : r = 0
    · rw [if_neg fun h => hq (h.1.trans hr)]; subst hr; rfl
    · rw [State.getX_cell _ _ hq, State.getX_cell _ _ hq]
      simp only [State.setX_x _ _ _ hr, Vector.getElem_set, BitVec.toNat_inj]
      by_cases h : r = q
      · rw [if_pos h, if_pos ⟨h.symm, hq⟩]
      · rw [if_neg h, if_neg fun e => h e.1.symm]

@[simp] theorem State.getBr_zero : s.getBr 0#4 = 0#64 := rfl
@[simp] theorem State.getBr_pc : s.getBr 15#4 = s.pc := rfl

/-- Reading a branch register other than 0 and 15 reads its cell. -/
theorem State.getBr_cell (r : BReg) (h0 : r ≠ 0) (h15 : r ≠ 15) : s.getBr r = s.br[r.toNat]'r.isLt := by
  unfold State.getBr; rw [if_neg h0, if_neg h15]

/-- Writing a branch register other than 0 and 15 writes its cell. -/
theorem State.setBr_br (r : BReg) (v : Word) (h0 : r ≠ 0) (h15 : r ≠ 15) :
    (s.setBr r v).br = s.br.set r.toNat v r.isLt := by
  unfold State.setBr; rw [if_neg fun h => h.elim h0 h15]

/-- Writes to branch registers 0 and 15 are discarded. -/
theorem State.setBr_discard (r : BReg) (v : Word) (h : r = 0 ∨ r = 15) : s.setBr r v = s := if_pos h

theorem State.getBr_setBr (r q : BReg) (v : Word) :
    (s.setBr r v).getBr q = if q = r ∧ q ≠ 0 ∧ q ≠ 15 then v else s.getBr q := by
  by_cases h0 : q = 0
  · rw [if_neg fun h => h.2.1 h0]; subst h0; rfl
  by_cases h15 : q = 15
  · rw [if_neg fun h => h.2.2 h15]; subst h15; simp
  by_cases hr : r = 0 ∨ r = 15
  · rw [State.setBr_discard _ _ _ hr, if_neg]
    rintro ⟨rfl, -, -⟩
    exact hr.elim h0 h15
  · rw [State.getBr_cell _ _ h0 h15, State.getBr_cell _ _ h0 h15]
    simp only [State.setBr_br _ _ _ (fun e => hr (.inl e)) (fun e => hr (.inr e)), Vector.getElem_set,
      BitVec.toNat_inj]
    by_cases h : r = q
    · rw [if_pos h, if_pos ⟨h.symm, h0, h15⟩]
    · rw [if_neg h, if_neg fun e => h e.1.symm]

theorem State.getP_setP (r q : PReg) (f : BitVec 4) :
    (s.setP r f).getP q = if q = r then f else s.getP q := by
  simp only [State.getP, State.setP_p, Vector.getElem_set, BitVec.toNat_inj, eq_comm]

theorem State.getP_setPregs (q : PReg) (v : Word) :
    (s.setPregs v).getP q = v.extractLsb' (4 * q.toNat) 4 := by
  simp [State.getP]

/-- The nibble `r` of sixteen nibbles put together. -/
theorem cat16_nibble (f : BitVec 4 → BitVec 4) (r : BitVec 4) :
    (f 15 ++ f 14 ++ f 13 ++ f 12 ++ f 11 ++ f 10 ++ f 9 ++ f 8 ++ f 7 ++ f 6 ++ f 5 ++ f 4 ++ f 3 ++ f 2 ++ f 1 ++
      f 0 : Word).extractLsb' (4 * r.toNat) 4 = f r := by
  have hr : r = 0 ∨ r = 1 ∨ r = 2 ∨ r = 3 ∨ r = 4 ∨ r = 5 ∨ r = 6 ∨ r = 7 ∨ r = 8 ∨ r = 9 ∨ r = 10 ∨ r = 11 ∨
      r = 12 ∨ r = 13 ∨ r = 14 ∨ r = 15 := by revert r; decide
  apply BitVec.eq_of_getLsbD_eq
  intro j hj
  rw [BitVec.getLsbD_extractLsb', decide_eq_true hj, Bool.true_and]
  obtain rfl | rfl | rfl | rfl | rfl | rfl | rfl | rfl | rfl | rfl | rfl | rfl | rfl | rfl | rfl | rfl := hr <;>
  · simp only [BitVec.getLsbD_append, BitVec.toNat_ofNat, BitVec.ofNat_eq_ofNat]
    repeat first | rw [if_pos (by omega)] | rw [if_neg (by omega)]
    congr 1; try omega

/-- PREGS holds predicate register `r` in bits 4r+3 .. 4r (10_state.md R33). -/
theorem State.pregs_nibble (r : PReg) : s.pregs.extractLsb' (4 * r.toNat) 4 = s.getP r := cat16_nibble s.getP r

theorem State.getSeg_setSeg (r q : BitVec 4) (v : Word) :
    (s.setSeg r v).getSeg q = if q = r then v else s.getSeg q := by
  simp only [State.getSeg, State.setSeg_seg, Vector.getElem_set, BitVec.toNat_inj, eq_comm]

end Sys2Proof.Machine
end

