-- ==== Sys2Proof/Laws/Memory.lean ====
section
/-!
SUPPORT. Memory: a read after a write, the canonical form, and that canonical memories with equal reads are equal.
-/

namespace Sys2Proof.Machine

/-- A write leaves every other byte alone, whatever the list. -/
theorem Memory.read_write_other (m : List Host.Cell) (a c : Nat) (b : Byte) (h : c ≠ a) :
    Memory.read (Memory.write m a b) c = Memory.read m c := by
  induction m with
  | nil => by_cases hb : b = Memory.unlisted <;> simp [Memory.write, Memory.read, hb, h.symm]
  | cons x r ih =>
    have hx : a = x.1 → ¬ x.1 = c := fun e e' => h (e'.symm.trans e.symm)
    simp only [Memory.write]
    split_ifs with h1 h2 h2 h3
    · rfl
    · simp only [Memory.read, if_neg h.symm]
    · simp only [Memory.read, if_neg (hx h2)]
    · simp only [Memory.read, if_neg (hx h2), if_neg h.symm]
    · simp only [Memory.read, ih]

/-- A row is nowhere below the bound of the canonical form. -/
theorem Memory.read_below (m : List Host.Cell) (lo a : Nat) (hw : Memory.wfFrom lo m = true) (h : a < lo) :
    Memory.read m a = Memory.unlisted := by
  induction m generalizing lo with
  | nil => rfl
  | cons x r ih =>
    simp only [Memory.wfFrom, Bool.and_eq_true, decide_eq_true_eq] at hw
    have hx : x.1 ≠ a := by omega
    simp only [Memory.read, if_neg hx]
    exact ih _ hw.2 (by omega)

theorem Memory.wfFrom_mono (m : List Host.Cell) (lo lo' : Nat) (hw : Memory.wfFrom lo m = true) (h : lo' ≤ lo) :
    Memory.wfFrom lo' m = true := by
  cases m with
  | nil => rfl
  | cons x r =>
    simp only [Memory.wfFrom, Bool.and_eq_true, decide_eq_true_eq] at hw ⊢
    exact ⟨⟨⟨by omega, hw.1.1.2⟩, hw.1.2⟩, hw.2⟩

/-- Reading what was just written, in canonical memory. -/
theorem Memory.read_write_same (m : List Host.Cell) (lo a : Nat) (b : Byte) (hw : Memory.wfFrom lo m = true) :
    Memory.read (Memory.write m a b) a = b := by
  induction m generalizing lo with
  | nil => by_cases hb : b = Memory.unlisted <;> simp [Memory.write, Memory.read, hb]
  | cons x r ih =>
    simp only [Memory.wfFrom, Bool.and_eq_true, decide_eq_true_eq] at hw
    simp only [Memory.write]
    by_cases h1 : a < x.1
    · rw [if_pos h1]
      by_cases hb : b = Memory.unlisted
      · have hx : x.1 ≠ a := by omega
        simp only [if_pos hb, Memory.read, if_neg hx]
        rw [Memory.read_below r _ _ hw.2 (by omega), hb]
      · simp [if_neg hb, Memory.read]
    · rw [if_neg h1]
      by_cases h2 : a = x.1
      · rw [if_pos h2]
        by_cases hb : b = Memory.unlisted
        · rw [if_pos hb, Memory.read_below r _ _ hw.2 (by omega), hb]
        · simp [if_neg hb, Memory.read]
      · have hx : ¬ x.1 = a := fun e => h2 e.symm
        simp only [if_neg h2, Memory.read, if_neg hx]
        exact ih _ hw.2

/-- A write keeps the canonical form. -/
theorem Memory.write_wfFrom (m : List Host.Cell) (lo a : Nat) (b : Byte) (hw : Memory.wfFrom lo m = true)
    (hlo : lo ≤ a) (ha : a < 2 ^ 64) : Memory.wfFrom lo (Memory.write m a b) = true := by
  induction m generalizing lo with
  | nil => by_cases hb : b = Memory.unlisted <;> simp [Memory.write, Memory.wfFrom, hb, hlo] <;> omega
  | cons x r ih =>
    simp only [Memory.wfFrom, Bool.and_eq_true, decide_eq_true_eq] at hw
    simp only [Memory.write]
    by_cases h1 : a < x.1
    · rw [if_pos h1]
      by_cases hb : b = Memory.unlisted
      · simp only [if_pos hb, Memory.wfFrom, Bool.and_eq_true, decide_eq_true_eq]
        exact hw
      · rw [if_neg hb]
        simp only [Memory.wfFrom, Bool.and_eq_true, decide_eq_true_eq]
        exact ⟨⟨⟨hlo, ha⟩, bne_iff_ne.2 hb⟩, ⟨⟨by omega, hw.1.1.2⟩, hw.1.2⟩, hw.2⟩
    · rw [if_neg h1]
      by_cases h2 : a = x.1
      · rw [if_pos h2]
        by_cases hb : b = Memory.unlisted
        · rw [if_pos hb]; exact Memory.wfFrom_mono r _ _ hw.2 (by omega)
        · subst h2
          rw [if_neg hb]
          simp only [Memory.wfFrom, Bool.and_eq_true, decide_eq_true_eq]
          exact ⟨⟨⟨hlo, ha⟩, bne_iff_ne.2 hb⟩, hw.2⟩
      · simp only [if_neg h2, Memory.wfFrom, Bool.and_eq_true, decide_eq_true_eq]
        exact ⟨hw.1, ih _ hw.2 (by omega)⟩

/-- Writing a byte at a physical address keeps the canonical form. -/
theorem Memory.write_wf (m : List Host.Cell) (a : Word) (b : Byte) (hw : Memory.wf m = true) :
    Memory.wf (Memory.write m a.toNat b) = true :=
  Memory.write_wfFrom m 0 _ b hw (Nat.zero_le _) a.isLt

/-- Canonical memories that read the same are the same list. -/
theorem Memory.ext_wfFrom (m m' : List Host.Cell) (lo : Nat) (h : Memory.wfFrom lo m = true)
    (h' : Memory.wfFrom lo m' = true) (hr : ∀ a, Memory.read m a = Memory.read m' a) : m = m' := by
  induction m generalizing m' lo with
  | nil =>
    cases m' with
    | nil => rfl
    | cons y r' =>
      simp only [Memory.wfFrom, Bool.and_eq_true, bne_iff_ne] at h'
      have := hr y.1
      simp only [Memory.read, if_true] at this
      exact absurd this.symm h'.1.2
  | cons x r ih =>
    simp only [Memory.wfFrom, Bool.and_eq_true, decide_eq_true_eq, bne_iff_ne] at h
    cases m' with
    | nil =>
      have := hr x.1
      simp only [Memory.read, if_true] at this
      exact absurd this h.1.2
    | cons y r' =>
      simp only [Memory.wfFrom, Bool.and_eq_true, decide_eq_true_eq, bne_iff_ne] at h'
      have hxy : x.1 = y.1 := by
        rcases Nat.lt_trichotomy x.1 y.1 with hlt | heq | hgt
        · have e := hr x.1
          have hne : ¬ y.1 = x.1 := by omega
          simp only [Memory.read, if_true, if_neg hne] at e
          rw [Memory.read_below r' _ _ h'.2 (by omega)] at e
          exact absurd e h.1.2
        · exact heq
        · have e := hr y.1
          have hne : ¬ x.1 = y.1 := by omega
          simp only [Memory.read, if_true, if_neg hne] at e
          rw [Memory.read_below r _ _ h.2 (by omega)] at e
          exact absurd e.symm h'.1.2
      have hb : x.2 = y.2 := by
        have e := hr x.1
        simpa [Memory.read, hxy] using e
      have hxe : x = y := Prod.ext hxy hb
      subst hxe
      congr 1
      refine ih r' _ h.2 h'.2 fun a => ?_
      by_cases ha : x.1 = a
      · rw [Memory.read_below r _ _ h.2 (by omega), Memory.read_below r' _ _ h'.2 (by omega)]
      · simpa [Memory.read, ha] using hr a

end Sys2Proof.Machine
end

