-- ==== Sys2Proof/Laws/Ops.lean ====
section
/-!
SUPPORT. For each shared operation one lemma that says all it can do: if it answers a next state, then which.
-/

namespace Sys2Proof.Machine

variable {s t : State}

/-! ### Predication and register results -/

theorem State.predicated_true {p : Pred} (h : s.holds p = true) (len : Nat) (o : Out) :
    s.predicated p len o = o := if_pos h

theorem State.predicated_false {p : Pred} (h : s.holds p = false) (len : Nat) (o : Out) :
    s.predicated p len o = .next (s.advance len) := if_neg (by simp [h])

theorem State.predicated_cases {p : Pred} {len : Nat} {o : Out} (h : s.predicated p len o = .next t) :
    (s.holds p = true ∧ o = .next t) ∨ (s.holds p = false ∧ t = s.advance len) := by
  cases hp : s.holds p
  · rw [State.predicated_false hp] at h
    cases h; exact .inr ⟨rfl, rfl⟩
  · rw [State.predicated_true hp] at h
    exact .inl ⟨rfl, h⟩

theorem State.aluResult_cases {rt : Reg} {len : Nat} {r : AluResult} (h : s.aluResult rt len r = .next t) :
    (∃ v, r = .value v ∧ t = (s.setX rt v).advance len) ∨
      (r = .overflow ∧ t = s.enter .exception s.cfg.overflowVector s.pc) := by
  cases r with
  | value v => cases h; exact .inl ⟨v, rfl, rfl⟩
  | overflow => cases h; exact .inr ⟨rfl, rfl⟩

/-- What the instructions without a memory access that write a general register can do. -/
theorem State.result_cases {rt : Reg} {len : Nat} {p : Pred} {v : Word}
    (h : s.predicated p len (s.result rt len v) = .next t) :
    t = s.advance len ∨ t = (s.setX rt v).advance len := by
  obtain ⟨-, h⟩ | ⟨-, rfl⟩ := State.predicated_cases h
  · cases h; exact .inr rfl
  · exact .inl rfl

theorem State.regAlu_cases {p : Pred} {ra rb rt : Reg} {f : Word → Word → AluResult}
    (h : s.regAlu p ra rb rt f = .next t) :
    t = s.advance 5 ∨ (∃ v, t = (s.setX rt v).advance 5) ∨
      t = s.enter .exception s.cfg.overflowVector s.pc := by
  obtain ⟨-, h⟩ | ⟨-, rfl⟩ := State.predicated_cases h
  · obtain ⟨v, -, rfl⟩ | ⟨-, rfl⟩ := State.aluResult_cases h
    · exact .inr (.inl ⟨v, rfl⟩)
    · exact .inr (.inr rfl)
  · exact .inl rfl

theorem State.immAlu_cases {op : ImmOp} {p : Pred} {ra rt : Reg} {imm : Word} {len : Nat}
    (h : s.immAlu op p ra rt imm len = .next t) :
    t = s.advance len ∨ (∃ v, t = (s.setX rt v).advance len) ∨
      t = s.enter .exception s.cfg.overflowVector s.pc := by
  obtain ⟨-, h⟩ | ⟨-, rfl⟩ := State.predicated_cases h
  · obtain ⟨v, -, rfl⟩ | ⟨-, rfl⟩ := State.aluResult_cases h
    · exact .inr (.inl ⟨v, rfl⟩)
    · exact .inr (.inr rfl)
  · exact .inl rfl

theorem State.bitfield_cases {p : Pred} {rt : Reg} {mb me : BitVec 6} {v : Word}
    (h : s.bitfield p rt mb me v = .next t) : t = s.advance 6 ∨ t = (s.setX rt v).advance 6 := by
  obtain ⟨-, h⟩ | ⟨-, rfl⟩ := State.predicated_cases h
  · split at h
    · cases h
    · cases h; exact .inr rfl
  · exact .inl rfl

theorem State.compare_cases {p : Pred} {pt : PReg} {f : BitVec 4} {len : Nat}
    (h : s.compare p pt f len = .next t) : t = s.advance len ∨ t = (s.setP pt f).advance len := by
  obtain ⟨-, h⟩ | ⟨-, rfl⟩ := State.predicated_cases h
  · cases h; exact .inr rfl
  · exact .inl rfl

theorem State.call_cases {p : Pred} {brt br : BReg} {off : Word} {len : Nat}
    (h : s.call p brt br off len = .next t) :
    t = s.advance len ∨ t = (s.setBr brt (s.pc + BitVec.ofNat 64 len)).jump (s.getBr br + off) := by
  obtain ⟨-, h⟩ | ⟨-, rfl⟩ := State.predicated_cases h
  · cases h; exact .inr rfl
  · exact .inl rfl

theorem State.writeSpr_cases {p : Pred} {n : SprNum} {v : Word} {len : Nat}
    (h : s.writeSpr p n v len = .next t) : t = s.advance len ∨ t = (s.sprWrite n v).advance len := by
  obtain ⟨-, h⟩ | ⟨-, rfl⟩ := State.predicated_cases h
  · cases h; exact .inr rfl
  · exact .inl rfl

theorem State.tlbCommand_cases {p : Pred} {u : State} (h : s.tlbCommand p u = .next t) :
    t = s.advance 4 ∨ t = u.advance 4 := by
  obtain ⟨-, h⟩ | ⟨-, rfl⟩ := State.predicated_cases h
  · cases h; exact .inr rfl
  · exact .inl rfl

/-- A special register write is one of five register writes, or nothing. -/
theorem State.sprWrite_cases (s : State) (n : SprNum) (v : Word) :
    (n = 3 ∧ s.sprWrite n v = s.setLc v) ∨ (n = 4 ∧ s.sprWrite n v = s.setPregs v) ∨
    (n = 6 ∧ s.sprWrite n v = s.setAsid (v.setWidth 8)) ∨
    (∃ r : BReg, n = 1#4 ++ r ∧ s.sprWrite n v = s.setBr r v) ∨
    (∃ r : BitVec 4, n = 2#4 ++ r ∧ s.sprWrite n v = s.setSeg r v) ∨
    (n ≠ 3 ∧ n ≠ 4 ∧ n ≠ 6 ∧ n.extractLsb' 4 4 ≠ 1#4 ∧ n.extractLsb' 4 4 ≠ 2#4 ∧ s.sprWrite n v = s) := by
  have hn : n = n.extractLsb' 4 4 ++ n.extractLsb' 0 4 := by
    rw [BitVec.extractLsb'_append_extractLsb'_eq_extractLsb' (by rfl)]; simp
  unfold State.sprWrite
  split
  · next h => exact .inl ⟨h, rfl⟩
  split
  · next h => exact .inr (.inl ⟨h, rfl⟩)
  split
  · next h => exact .inr (.inr (.inl ⟨h, rfl⟩))
  split
  · next h => exact .inr (.inr (.inr (.inl ⟨_, by rw [← h]; exact hn, rfl⟩)))
  split
  · next h => exact .inr (.inr (.inr (.inr (.inl ⟨_, by rw [← h]; exact hn, rfl⟩))))
  · next h1 h2 h3 h4 h5 => exact .inr (.inr (.inr (.inr (.inr ⟨h1, h2, h3, h4, h5, rfl⟩))))

/-! ### The bus -/

/-- A byte stored changes memory and the record of replaced bytes, at most. -/
theorem State.storeByte_eq (s : State) (pa : Word) (b : Byte) :
    s.storeByte pa b =
      if s.kindAt pa = .memory then
        { s with
          mem := Memory.write s.mem pa.toNat b
          lag := { s.lag with overwritten := (pa.toNat, Memory.read s.mem pa.toNat) :: s.lag.overwritten } }
      else s := by
  unfold State.storeByte
  cases h : s.kindAt pa <;> simp

/-- A bus write changes memory and the record of replaced bytes, at most. -/
theorem State.busWrite_frame (s : State) (pa v : Word) (n : Nat) :
    s.busWrite pa v n = { s with mem := (s.busWrite pa v n).mem, lag := (s.busWrite pa v n).lag } := by
  induction n with
  | zero => rfl
  | succ n ih =>
    rw [State.busWrite, State.storeByte_eq]
    split <;> rw [ih]

@[simp] theorem State.busWrite_x (s : State) (pa v : Word) (n : Nat) : (s.busWrite pa v n).x = s.x := by
  rw [State.busWrite_frame]
@[simp] theorem State.busWrite_br (s : State) (pa v : Word) (n : Nat) : (s.busWrite pa v n).br = s.br := by
  rw [State.busWrite_frame]
@[simp] theorem State.busWrite_pc (s : State) (pa v : Word) (n : Nat) : (s.busWrite pa v n).pc = s.pc := by
  rw [State.busWrite_frame]
@[simp] theorem State.busWrite_p (s : State) (pa v : Word) (n : Nat) : (s.busWrite pa v n).p = s.p := by
  rw [State.busWrite_frame]
@[simp] theorem State.busWrite_sr (s : State) (pa v : Word) (n : Nat) : (s.busWrite pa v n).sr = s.sr := by
  rw [State.busWrite_frame]
@[simp] theorem State.busWrite_lc (s : State) (pa v : Word) (n : Nat) : (s.busWrite pa v n).lc = s.lc := by
  rw [State.busWrite_frame]
@[simp] theorem State.busWrite_asid (s : State) (pa v : Word) (n : Nat) : (s.busWrite pa v n).asid = s.asid := by
  rw [State.busWrite_frame]
@[simp] theorem State.busWrite_seg (s : State) (pa v : Word) (n : Nat) : (s.busWrite pa v n).seg = s.seg := by
  rw [State.busWrite_frame]
@[simp] theorem State.busWrite_tlb (s : State) (pa v : Word) (n : Nat) : (s.busWrite pa v n).tlb = s.tlb := by
  rw [State.busWrite_frame]
@[simp] theorem State.busWrite_tlbEnabled (s : State) (pa v : Word) (n : Nat) : (s.busWrite pa v n).tlbEnabled = s.tlbEnabled := by
  rw [State.busWrite_frame]
@[simp] theorem State.busWrite_tlbRegs (s : State) (pa v : Word) (n : Nat) : (s.busWrite pa v n).tlbRegs = s.tlbRegs := by
  rw [State.busWrite_frame]
@[simp] theorem State.busWrite_tick (s : State) (pa v : Word) (n : Nat) : (s.busWrite pa v n).tick = s.tick := by
  rw [State.busWrite_frame]
@[simp] theorem State.busWrite_pins (s : State) (pa v : Word) (n : Nat) : (s.busWrite pa v n).pins = s.pins := by
  rw [State.busWrite_frame]
@[simp] theorem State.busWrite_schedule (s : State) (pa v : Word) (n : Nat) : (s.busWrite pa v n).schedule = s.schedule := by
  rw [State.busWrite_frame]
@[simp] theorem State.busWrite_now (s : State) (pa v : Word) (n : Nat) : (s.busWrite pa v n).now = s.now := by
  rw [State.busWrite_frame]
@[simp] theorem State.busWrite_cfg (s : State) (pa v : Word) (n : Nat) : (s.busWrite pa v n).cfg = s.cfg := by
  rw [State.busWrite_frame]

@[simp] theorem State.busWrite_kindAt (s : State) (pa v a : Word) (n : Nat) :
    (s.busWrite pa v n).kindAt a = s.kindAt a := by
  unfold State.kindAt; rw [State.busWrite_cfg]

/-- A bus write keeps the canonical form of memory. -/
theorem State.busWrite_wf (s : State) (pa v : Word) (n : Nat) (h : Memory.wf s.mem = true) :
    Memory.wf (s.busWrite pa v n).mem = true := by
  induction n with
  | zero => exact h
  | succ n ih =>
    rw [State.busWrite, State.storeByte_eq]
    split
    · exact Memory.write_wf _ _ _ ih
    · exact ih

/-- A bus write leaves every byte alone that is not one of its own. -/
theorem State.busWrite_other (s : State) (pa v : Word) (n : Nat) (a : Nat)
    (h : ∀ k < n, s.kindAt (pa + BitVec.ofNat 64 k) = .memory → a ≠ (pa + BitVec.ofNat 64 k).toNat) :
    Memory.read (s.busWrite pa v n).mem a = Memory.read s.mem a := by
  induction n with
  | zero => rfl
  | succ n ih =>
    rw [State.busWrite, State.storeByte_eq, State.busWrite_kindAt]
    split
    · next hk =>
      exact (Memory.read_write_other _ _ _ _ (h n (Nat.lt_succ_self n) hk)).trans
        (ih fun k hk' => h k (Nat.lt_succ_of_lt hk'))
    · exact ih fun k hk' => h k (Nat.lt_succ_of_lt hk')

/-- The bytes a bus write of at most eight bytes leaves, where the platform has memory. -/
theorem State.busWrite_same (s : State) (pa v : Word) (n k : Nat) (hn : n ≤ 8) (hk : k < n)
    (hw : Memory.wf s.mem = true) (hm : s.kindAt (pa + BitVec.ofNat 64 k) = .memory) :
    Memory.read (s.busWrite pa v n).mem (pa + BitVec.ofNat 64 k).toNat = v.extractLsb' (8 * k) 8 := by
  induction n with
  | zero => omega
  | succ n ih =>
    rw [State.busWrite, State.storeByte_eq, State.busWrite_kindAt]
    by_cases hkn : k = n
    · subst hkn
      rw [if_pos hm]
      exact Memory.read_write_same _ 0 _ _ (State.busWrite_wf s pa v k hw)
    · have ih' := ih (by omega) (by omega)
      split
      · refine (Memory.read_write_other _ _ _ _ fun e => hkn ?_).trans ih'
        have e' : BitVec.ofNat 64 k = BitVec.ofNat 64 n := by
          have := BitVec.eq_of_toNat_eq e; bv_omega
        have := congrArg BitVec.toNat e'
        simp only [BitVec.toNat_ofNat] at this
        omega
      · exact ih'

@[simp] theorem State.busWrite_dataFails (s : State) (pa v a : Word) (n : Nat) :
    (s.busWrite pa v n).dataFails a = s.dataFails a := by
  unfold State.dataFails; rw [State.busWrite_kindAt, State.busWrite_pins]

/-- A byte whose data cycle does not fail is not absent. -/
theorem State.kindAt_of_dataFails (s : State) (pa : Word) (h : s.dataFails pa = false) : s.kindAt pa ≠ .absent := by
  intro e; simp [State.dataFails, e] at h

/-- `busError` says that the cycle of some byte of a transfer fails. -/
theorem State.busError_eq_false (s : State) (pa : Word) (n : Nat) :
    s.busError pa n = false ↔ ∀ k < n, s.dataFails (pa + BitVec.ofNat 64 k) = false := by
  induction n with
  | zero => simp [State.busError]
  | succ n ih =>
    simp only [State.busError, Bool.or_eq_false_iff, ih]
    constructor
    · rintro ⟨h1, h2⟩ k hk
      by_cases hkn : k = n
      · subst hkn; exact h2
      · exact h1 k (by omega)
    · exact fun h => ⟨fun k hk => h k (by omega), h n (by omega)⟩

/-! ### Data accesses -/

/-- The state after a translation through an entry: a write marks it dirty. -/
def State.touched (s : State) (write : Bool) (e : Option (Fin 64)) : State :=
  match write, e with
  | true, some i => s.markDirty i
  | _, _ => s

/-- A translation changes the TLB entries, at most. -/
theorem State.touched_frame (s : State) (w : Bool) (e : Option (Fin 64)) :
    s.touched w e = { s with tlb := (s.touched w e).tlb } := by
  cases w <;> cases e <;> rfl

@[simp] theorem State.touched_x (s : State) (w : Bool) (e : Option (Fin 64)) : (s.touched w e).x = s.x := by
  rw [State.touched_frame]
@[simp] theorem State.touched_br (s : State) (w : Bool) (e : Option (Fin 64)) : (s.touched w e).br = s.br := by
  rw [State.touched_frame]
@[simp] theorem State.touched_pc (s : State) (w : Bool) (e : Option (Fin 64)) : (s.touched w e).pc = s.pc := by
  rw [State.touched_frame]
@[simp] theorem State.touched_p (s : State) (w : Bool) (e : Option (Fin 64)) : (s.touched w e).p = s.p := by
  rw [State.touched_frame]
@[simp] theorem State.touched_sr (s : State) (w : Bool) (e : Option (Fin 64)) : (s.touched w e).sr = s.sr := by
  rw [State.touched_frame]
@[simp] theorem State.touched_lc (s : State) (w : Bool) (e : Option (Fin 64)) : (s.touched w e).lc = s.lc := by
  rw [State.touched_frame]
@[simp] theorem State.touched_asid (s : State) (w : Bool) (e : Option (Fin 64)) : (s.touched w e).asid = s.asid := by
  rw [State.touched_frame]
@[simp] theorem State.touched_seg (s : State) (w : Bool) (e : Option (Fin 64)) : (s.touched w e).seg = s.seg := by
  rw [State.touched_frame]
@[simp] theorem State.touched_tlbEnabled (s : State) (w : Bool) (e : Option (Fin 64)) : (s.touched w e).tlbEnabled = s.tlbEnabled := by
  rw [State.touched_frame]
@[simp] theorem State.touched_tlbRegs (s : State) (w : Bool) (e : Option (Fin 64)) : (s.touched w e).tlbRegs = s.tlbRegs := by
  rw [State.touched_frame]
@[simp] theorem State.touched_tick (s : State) (w : Bool) (e : Option (Fin 64)) : (s.touched w e).tick = s.tick := by
  rw [State.touched_frame]
@[simp] theorem State.touched_mem (s : State) (w : Bool) (e : Option (Fin 64)) : (s.touched w e).mem = s.mem := by
  rw [State.touched_frame]
@[simp] theorem State.touched_lag (s : State) (w : Bool) (e : Option (Fin 64)) : (s.touched w e).lag = s.lag := by
  rw [State.touched_frame]
@[simp] theorem State.touched_pins (s : State) (w : Bool) (e : Option (Fin 64)) : (s.touched w e).pins = s.pins := by
  rw [State.touched_frame]
@[simp] theorem State.touched_schedule (s : State) (w : Bool) (e : Option (Fin 64)) : (s.touched w e).schedule = s.schedule := by
  rw [State.touched_frame]
@[simp] theorem State.touched_now (s : State) (w : Bool) (e : Option (Fin 64)) : (s.touched w e).now = s.now := by
  rw [State.touched_frame]
@[simp] theorem State.touched_cfg (s : State) (w : Bool) (e : Option (Fin 64)) : (s.touched w e).cfg = s.cfg := by
  rw [State.touched_frame]

@[simp] theorem State.touched_kindAt (s : State) (w : Bool) (e : Option (Fin 64)) (a : Word) :
    (s.touched w e).kindAt a = s.kindAt a := by
  unfold State.kindAt; rw [State.touched_cfg]

@[simp] theorem State.touched_dataFails (s : State) (w : Bool) (e : Option (Fin 64)) (a : Word) :
    (s.touched w e).dataFails a = s.dataFails a := by
  unfold State.dataFails; rw [State.touched_kindAt, State.touched_pins]

/-- A translation changes the D bit of an entry, at most (20_memory.md R87). -/
theorem State.touched_entry (s : State) (w : Bool) (e : Option (Fin 64)) (i : Fin 64) :
    (s.touched w e).tlb[i.val]'i.isLt =
      { s.tlb[i.val]'i.isLt with d := ((s.touched w e).tlb[i.val]'i.isLt).d } := by
  cases w
  · cases e <;> rfl
  · cases e with
    | none => rfl
    | some j =>
      show (s.markDirty j).tlb[i.val]'i.isLt = { s.tlb[i.val]'i.isLt with d := ((s.markDirty j).tlb[i.val]'i.isLt).d }
      simp only [State.markDirty_tlb, Vector.getElem_set]
      split
      · next h => simp only [h]
      · rfl

theorem State.access_hit (write : Bool) (a : Word) (n : Nat) (pa : Word) (e : Option (Fin 64))
    (ha : a.toNat % n = 0) (hl : s.lookup (s.dataAddress a) = .hit pa e) (hb : s.busError pa n = false) :
    s.access write a n = .ok pa (s.touched write e) := by
  unfold State.access
  rw [if_neg (by simpa using ha), hl]
  simp only [hb]
  cases write <;> cases e <;> rfl

/-- All that a data access can do. -/
theorem State.access_cases (s : State) (write : Bool) (a : Word) (n : Nat) :
    (∃ pa e, a.toNat % n = 0 ∧ s.lookup (s.dataAddress a) = .hit pa e ∧ s.busError pa n = false ∧
      s.access write a n = .ok pa (s.touched write e)) ∨
    (a.toNat % n = 0 ∧ s.lookup (s.dataAddress a) = .miss ∧
      s.access write a n = .trap vecDtlbMiss (s.recordDataMiss (s.dataAddress a))) ∨
    (∃ pa e, a.toNat % n = 0 ∧ s.lookup (s.dataAddress a) = .hit pa e ∧ s.busError pa n = true ∧
      s.access write a n = .trap vecBusData (s.touched write e)) ∨
    ∃ r, s.access write a n = .fault r := by
  by_cases ha : a.toNat % n = 0
  · cases hl : s.lookup (s.dataAddress a) with
    | hit pa e =>
      cases hb : s.busError pa n
      · exact .inl ⟨pa, e, ha, rfl, hb, State.access_hit _ _ _ _ _ ha hl hb⟩
      · refine .inr (.inr (.inl ⟨pa, e, ha, rfl, hb, ?_⟩))
        unfold State.access
        rw [if_neg (by simpa using ha), hl]
        simp only [hb, if_true]
        cases write <;> cases e <;> rfl
    | miss =>
      refine .inr (.inl ⟨ha, rfl, ?_⟩)
      unfold State.access
      rw [if_neg (by simpa using ha), hl]
    | multiple =>
      refine .inr (.inr (.inr ⟨.tlbMultipleMatch, ?_⟩))
      unfold State.access
      rw [if_neg (by simpa using ha), hl]
  · exact .inr (.inr (.inr ⟨.misaligned, by unfold State.access; rw [if_pos ha]⟩))

/-- A state in which a data access may take its exception: the miss recorded, or a write's entry marked dirty. -/
def State.Disturbed (s t : State) : Prop :=
  (∃ a, t = s.recordDataMiss a) ∨ ∃ w e, t = s.touched w e

/-- All that a memory read can do: it changes nothing. -/
theorem State.memRead_cases (s : State) (a : Word) (n : Nat) :
    (∃ v, s.memRead a n = .ok v s) ∨ (∃ w u, s.Disturbed u ∧ s.memRead a n = .trap w u) ∨
      ∃ r, s.memRead a n = .fault r := by
  unfold State.memRead
  obtain ⟨pa, e, -, -, -, h⟩ | ⟨-, -, h⟩ | ⟨pa, e, -, -, -, h⟩ | ⟨r, h⟩ := s.access_cases false a n <;> rw [h]
  · exact .inl ⟨_, rfl⟩
  · exact .inr (.inl ⟨_, _, .inl ⟨_, rfl⟩, rfl⟩)
  · exact .inr (.inl ⟨_, _, .inr ⟨_, _, rfl⟩, rfl⟩)
  · exact .inr (.inr ⟨_, rfl⟩)

/-- All that a memory write can do: the entry it goes through marked dirty, then the bytes. -/
theorem State.memWrite_cases (s : State) (a : Word) (n : Nat) (v : Word) :
    (∃ pa e, s.memWrite a n v = .ok () ((s.touched true e).busWrite pa v n)) ∨
      (∃ w u, s.Disturbed u ∧ s.memWrite a n v = .trap w u) ∨ ∃ r, s.memWrite a n v = .fault r := by
  unfold State.memWrite
  obtain ⟨pa, e, -, -, -, h⟩ | ⟨-, -, h⟩ | ⟨pa, e, -, -, -, h⟩ | ⟨r, h⟩ := s.access_cases true a n <;> rw [h]
  · exact .inl ⟨_, _, rfl⟩
  · exact .inr (.inl ⟨_, _, .inl ⟨_, rfl⟩, rfl⟩)
  · exact .inr (.inl ⟨_, _, .inr ⟨_, _, rfl⟩, rfl⟩)
  · exact .inr (.inr ⟨_, rfl⟩)

/-- All that the access of CAS can do. -/
theorem State.memSwap_cases (s : State) (a x y : Word) :
    (∃ pa e v n, s.memSwap a x y = .ok v ((s.touched true e).busWrite pa y n)) ∨
      (∃ w u, s.Disturbed u ∧ s.memSwap a x y = .trap w u) ∨ ∃ r, s.memSwap a x y = .fault r := by
  unfold State.memSwap
  obtain ⟨pa, e, -, -, -, h⟩ | ⟨-, -, h⟩ | ⟨pa, e, -, -, -, h⟩ | ⟨r, h⟩ := s.access_cases true a 8 <;> rw [h]
  · dsimp only
    split
    · exact .inl ⟨_, _, _, 8, rfl⟩
    · exact .inl ⟨pa, e, _, 0, rfl⟩
  · exact .inr (.inl ⟨_, _, .inl ⟨_, rfl⟩, rfl⟩)
  · exact .inr (.inl ⟨_, _, .inr ⟨_, _, rfl⟩, rfl⟩)
  · exact .inr (.inr ⟨_, rfl⟩)

/-- A trap out of a data access of an instruction at `s`. -/
def State.DataTrap (s t : State) : Prop := ∃ w u, s.Disturbed u ∧ t = u.enter .exception w s.pc

theorem State.load_cases {k : LoadKind} {p : Pred} {a : Word} {rt : Reg} {len : Nat}
    (h : s.load k p a rt len = .next t) :
    t = s.advance len ∨ (∃ v, t = (s.setX rt v).advance len) ∨ s.DataTrap t := by
  obtain ⟨-, h⟩ | ⟨-, rfl⟩ := State.predicated_cases h
  · obtain ⟨v, e⟩ | ⟨w, u, hu, e⟩ | ⟨r, e⟩ := s.memRead_cases a k.bytes <;> rw [e] at h <;> cases h
    · exact .inr (.inl ⟨_, rfl⟩)
    · exact .inr (.inr ⟨w, u, hu, rfl⟩)
  · exact .inl rfl

theorem State.loadSpr_cases {p : Pred} {a : Word} {n : SprNum} {len : Nat}
    (h : s.loadSpr p a n len = .next t) :
    t = s.advance len ∨ (∃ v, t = (s.sprWrite n v).advance len) ∨ s.DataTrap t := by
  obtain ⟨-, h⟩ | ⟨-, rfl⟩ := State.predicated_cases h
  · obtain ⟨v, e⟩ | ⟨w, u, hu, e⟩ | ⟨r, e⟩ := s.memRead_cases a 8 <;> rw [e] at h <;> cases h
    · exact .inr (.inl ⟨_, rfl⟩)
    · exact .inr (.inr ⟨w, u, hu, rfl⟩)
  · exact .inl rfl

theorem State.store_cases {n : Nat} {p : Pred} {a v : Word} {len : Nat} (h : s.store n p a v len = .next t) :
    t = s.advance len ∨ (∃ pa e, t = ((s.touched true e).busWrite pa v n).advance len) ∨ s.DataTrap t := by
  obtain ⟨-, h⟩ | ⟨-, rfl⟩ := State.predicated_cases h
  · obtain ⟨pa, e', e⟩ | ⟨w, u, hu, e⟩ | ⟨r, e⟩ := s.memWrite_cases a n v <;> rw [e] at h <;> cases h
    · exact .inr (.inl ⟨_, _, rfl⟩)
    · exact .inr (.inr ⟨w, u, hu, rfl⟩)
  · exact .inl rfl

theorem State.compareSwap_cases {p : Pred} {a : Word} {rb rc rt : Reg} {len : Nat}
    (h : s.compareSwap p a rb rc rt len = .next t) :
    t = s.advance len ∨
      (∃ pa e v n, t = (((s.touched true e).busWrite pa (s.getX rc) n).setX rt v).advance len) ∨ s.DataTrap t := by
  obtain ⟨-, h⟩ | ⟨-, rfl⟩ := State.predicated_cases h
  · obtain ⟨pa, e', v, n, e⟩ | ⟨w, u, hu, e⟩ | ⟨r, e⟩ := s.memSwap_cases a (s.getX rb) (s.getX rc) <;>
      rw [e] at h <;> cases h
    · exact .inr (.inl ⟨_, _, _, _, rfl⟩)
    · exact .inr (.inr ⟨w, u, hu, rfl⟩)
  · exact .inl rfl

/-! ### String stores -/

/-- What a string store leaves alone at every element: the general, branch, predicate and segment registers, the status,
the pc, the TLB registers and the parameters. -/
structure State.StringFrame (s t : State) : Prop where
  frame : ∃ lc mem lag tlb, t = { s with lc := lc, mem := mem, lag := lag, tlb := tlb }
  wf    : Memory.wf s.mem = true → Memory.wf t.mem = true
  entry : ∀ i : Fin 64, t.tlb[i.val]'i.isLt = { s.tlb[i.val]'i.isLt with d := (t.tlb[i.val]'i.isLt).d }

theorem State.StringFrame.refl (s : State) : s.StringFrame s := ⟨⟨_, _, _, _, rfl⟩, id, fun _ => rfl⟩

/-- One element stored keeps the frame. -/
theorem State.StringFrame.element (h : s.StringFrame t) (e : Option (Fin 64)) (pa v l : Word) (n : Nat) :
    s.StringFrame (((t.touched true e).busWrite pa v n).setLc l) := by
  refine ⟨?_, fun hw => ?_, fun i => ?_⟩
  · obtain ⟨_, _, _, _, rfl⟩ := h.frame
    exact ⟨l, _, _, _, by rw [State.busWrite_frame, State.touched_frame]; rfl⟩
  · exact State.busWrite_wf _ _ _ _ (by simpa using h.wf hw)
  · simp only [State.setLc_tlb, State.busWrite_tlb]
    rw [State.touched_entry, h.entry i]

/-- All that the loop of a string store can do: it ends, or an element takes its exception, in a state with the frame. -/
theorem State.fill_cases (s : State) (a v : Word) (n m : Nat) :
    (∃ t, s.StringFrame t ∧ s.fill a v n m = .ok () t) ∨
      (∃ w t u, s.StringFrame t ∧ t.Disturbed u ∧ s.fill a v n m = .trap w u) ∨ ∃ r, s.fill a v n m = .fault r := by
  suffices h : ∀ (t : State) (a : Word), s.StringFrame t →
      (∃ u, s.StringFrame u ∧ t.fill a v n m = .ok () u) ∨
        (∃ w y u, s.StringFrame y ∧ y.Disturbed u ∧ t.fill a v n m = .trap w u) ∨ ∃ r, t.fill a v n m = .fault r from
    h s a (.refl s)
  induction m with
  | zero => exact fun t a ht => .inl ⟨t, ht, rfl⟩
  | succ m ih =>
    intro t a ht
    unfold State.fill
    obtain ⟨pa, e', e⟩ | ⟨w, u, hu, e⟩ | ⟨r, e⟩ := t.memWrite_cases a n v <;> rw [e]
    · exact ih _ _ (ht.element _ _ _ _ _)
    · exact .inr (.inl ⟨w, t, u, ht, hu, rfl⟩)
    · exact .inr (.inr ⟨r, rfl⟩)

theorem State.stringStore_cases {n : Nat} {p : Pred} {ra rb : Reg} (h : s.stringStore n p ra rb = .next t) :
    t = s.advance 4 ∨ (∃ u, s.StringFrame u ∧ t = u.advance 4) ∨
      ∃ w y u, s.StringFrame y ∧ y.Disturbed u ∧ t = u.enter .exception w s.pc := by
  obtain ⟨-, h⟩ | ⟨-, rfl⟩ := State.predicated_cases h
  · obtain ⟨u, hu, e⟩ | ⟨w, y, u, hy, hu, e⟩ | ⟨r, e⟩ := s.fill_cases (s.getX ra) (s.getX rb) n s.lc.toNat <;>
      rw [e] at h <;> cases h
    · exact .inr (.inl ⟨u, hu, rfl⟩)
    · exact .inr (.inr ⟨w, y, u, hy, hu, rfl⟩)
  · exact .inl rfl

/-! ### The step -/

/-- All that a step can do. -/
theorem step_cases (h : step s = .next t) :
    s.boundary = .taken t ∨
    (s.boundary = .go s.sample ∧
      ((∃ i, s.sample.fetch = .run i ∧ exec i s.sample = .next t) ∨
        ∃ o, s.sample.fetch = .stop o ∧ o = .next t)) := by
  unfold step at h
  unfold State.boundary at *
  dsimp only at *
  split_ifs at h ⊢ <;> simp only [Host.Outcome.next.injEq, Boundary.taken.injEq, reduceCtorEq, false_and, or_false,
    true_and, false_or] at h ⊢
  · exact h
  · exact h
  · exact h
  · split at h
    · next i e => exact .inl ⟨i, e, h⟩
    · next o e => exact .inr ⟨o, e, h⟩

/-- All that a boundary can do. -/
theorem State.boundary_cases (s : State) :
    (s.boundary = .taken s.sample.warmReset) ∨
    (∃ v, s.boundary = .taken (s.sample.enter .interrupt v s.pc)) ∨
    s.boundary = .go s.sample := by
  unfold State.boundary
  dsimp only
  split_ifs
  · exact .inl rfl
  · exact .inr (.inl ⟨_, rfl⟩)
  · exact .inr (.inl ⟨_, rfl⟩)
  · exact .inr (.inr rfl)

/-- All that a fetch that does not run an instruction can lead to. -/
theorem State.fetch_stop_cases {o : Out} (h : s.fetch = .stop o) (ho : o = .next t) :
    (t = s.enter .exception vecUnimplemented s.pc) ∨
    (∃ a, t = (s.recordCodeMiss a).enter .exception vecItlbMiss s.pc) ∨
    t = s.enter .exception vecBusFetch s.pc := by
  have hb : ∀ n a e, (s.fetchBytes a n).2 = some e →
      (∃ c, e = .trap vecItlbMiss (s.recordCodeMiss c)) ∨ e = .trap vecBusFetch s ∨ ∃ r, e = .fault r := by
    intro n
    induction n with
    | zero => intro a e he; simp [State.fetchBytes] at he
    | succ n ih =>
      intro a e he
      unfold State.fetchBytes at he
      cases hf : s.fetchByte a with
      | error x =>
        rw [hf] at he
        simp only [Option.some.injEq] at he
        subst he
        unfold State.fetchByte at hf
        split at hf
        · cases hf; exact .inl ⟨_, rfl⟩
        · cases hf; exact .inr (.inr ⟨_, rfl⟩)
        · split at hf
          · cases hf; exact .inr (.inl rfl)
          · cases hf
      | ok b => rw [hf] at he; exact ih _ _ he
  subst ho
  unfold State.fetch at h
  split at h
  · cases h
  · split at h
    · cases h; exact .inl rfl
    · cases h
  · cases h
  · simp only [Fetched.stop.injEq] at h
    unfold State.stopFetch at h
    split at h
    · next v u hs =>
      cases h
      obtain ⟨c, e⟩ | e | ⟨r, e⟩ := hb _ _ _ hs <;> cases e
      · exact .inr (.inl ⟨c, rfl⟩)
      · exact .inr (.inr rfl)
    · cases h
    · cases h

end Sys2Proof.Machine
end

