-- ==== Sys2Proof/Laws/Forms.lean ====
section
/-!
SUPPORT. The shared operations in the terms of the claims: what entering a trap, writing a register, a prefix, a load or a
store form is, and what the bus and the TLB answer.
-/

namespace Sys2Proof.Machine

/-- Entering a trap is what the claims call a trap (60_exceptions.md R376). -/
theorem enter_trapFrom (s : State) (k : TrapKind) (v : BitVec 8) (ret : Word) :
    TrapFrom s (s.enter k v ret) k.link v ret := by
  refine ⟨?_, ?_, ?_, by simp, ?_, ?_⟩
  · intro r hr
    have : (s.enter k v ret).getBr r = (s.setBr k.link ret).getBr r := by
      by_cases h0 : r = 0
      · subst h0; rfl
      · rw [State.getBr_cell _ _ h0 hr, State.getBr_cell _ _ h0 hr]; rfl
    rw [this, State.getBr_setBr]
    by_cases hl : r = k.link
    · subst hl; cases k <;> simp [TrapKind.link]
    · simp [hl]
  · rw [State.enter_sr]; unfold State.statusLow
    exact status_backup _ _
  · intro j hj
    rw [State.enter_sr, status_bit]
    simp only [hj, if_true, decide_true]
    rw [entered_bit _ _ hj]; simp [State.statusLow, hj]
  · cases k <;> rfl
  · intro a; simp

/-- A register write changes the general registers, at most. -/
theorem State.setX_frame (s : State) (r : Reg) (v : Word) : s.setX r v = { s with x := (s.setX r v).x } := by
  unfold State.setX; split <;> rfl

/-- An instruction that ends with a register result writes that register and nothing else. -/
theorem writesX_of_result (i : Instr) (s : State) (rt : Reg) (v : Word) (len : Nat)
    (h : exec i s = s.result rt len v) : WritesX i s rt v len := by
  refine ⟨_, h, ?_, ?_, ?_, ?_⟩
  · intro r; exact State.getX_setX s rt r v
  · simp
  · rw [State.setX_frame]; rfl
  · intro a; simp

/-- An instruction that ends with a predicate write writes that predicate register and nothing else. -/
theorem writesP_of_setP (i : Instr) (s : State) (pt : PReg) (f : BitVec 4) (len : Nat)
    (h : exec i s = .next ((s.setP pt f).advance len)) : WritesP i s pt f len := by
  refine ⟨_, h, ?_, ?_, ?_, ?_⟩
  · intro r; exact State.getP_setP s pt r f
  · simp
  · rfl
  · intro a; simp

/-- An instruction behind a prefix is the extended instruction with the prefixed immediate (30_encoding.md R116). -/
theorem exec_of_prefixParts (i : Instr) (n : Nat) (imm : Word) (e : Ext) (s : State)
    (h : prefixParts i = some (n, imm, e)) :
    exec i s = s.extended n imm e := by
  cases i <;> simp only [prefixParts, Option.some.injEq, Prod.mk.injEq, reduceCtorEq] at h <;>
    (obtain ⟨rfl, rfl, rfl⟩ := h; rfl)

/-- The instruction of a load form is that load. -/
theorem exec_of_loadForm (s : State) (i : Instr) (f : LoadForm) (h : loadForm s i = some f) :
    exec i s = s.load ⟨f.bytes, f.signed⟩ f.pred f.address f.target f.length ∧
      (f.bytes = 1 ∨ f.bytes = 2 ∨ f.bytes = 4 ∨ f.bytes = 8) := by
  cases i with
  | imm16 k e | imm24 k e | imm32 k e | imm40 k e | imm48 k e | imm56 k e | imm64 k e =>
    cases e <;> simp only [loadForm, prefixParts, Option.some.injEq, reduceCtorEq] at h
    subst h
    rename_i op _ _ _ _
    exact ⟨rfl, by cases op <;> simp [loadKind]⟩
  | _ =>
    simp only [loadForm, prefixParts, Option.some.injEq, reduceCtorEq] at h <;> subst h <;> exact ⟨rfl, by simp⟩

/-- The instruction of a store form is that store. -/
theorem exec_of_storeForm (s : State) (i : Instr) (f : StoreForm) (h : storeForm s i = some f) :
    exec i s = s.store f.bytes f.pred f.address f.data f.length ∧ f.bytes ≤ 8 := by
  cases i with
  | imm16 k e | imm24 k e | imm32 k e | imm40 k e | imm48 k e | imm56 k e | imm64 k e =>
    cases e <;> simp only [storeForm, prefixParts, Option.some.injEq, reduceCtorEq] at h <;> subst h
    · rename_i op _ _ _ _
      exact ⟨rfl, by cases op <;> simp [storeBytes]⟩
    · exact ⟨rfl, by simp⟩
  | _ =>
    simp only [storeForm, prefixParts, Option.some.injEq, reduceCtorEq] at h <;> subst h <;> exact ⟨rfl, by simp⟩

/-- The instruction of an LWS form is that load. -/
theorem exec_of_lwsForm (s : State) (i : Instr) (f : LwsForm) (h : lwsForm s i = some f) :
    exec i s = s.loadSpr f.pred f.address f.spr f.length := by
  cases i with
  | imm16 k e | imm24 k e | imm32 k e | imm40 k e | imm48 k e | imm56 k e | imm64 k e =>
    cases e <;> simp only [lwsForm, prefixParts, Option.some.injEq, reduceCtorEq] at h <;> subst h
    exact rfl
  | _ =>
    simp only [lwsForm, prefixParts, Option.some.injEq, reduceCtorEq] at h <;> subst h <;> exact rfl

/-- The instruction of a CAS form is that access. -/
theorem exec_of_casForm (s : State) (i : Instr) (f : CasForm) (h : casForm s i = some f) :
    exec i s = s.predicated f.pred f.length
      (s.afterAccess (s.memSwap f.address f.expected f.new) fun old t => t.result f.target f.length old) := by
  cases i with
  | imm16 k e | imm24 k e | imm32 k e | imm40 k e | imm48 k e | imm56 k e | imm64 k e =>
    cases e <;> simp only [casForm, prefixParts, Option.some.injEq, reduceCtorEq] at h <;> subst h
    exact rfl
  | _ =>
    simp only [casForm, prefixParts, Option.some.injEq, reduceCtorEq] at h <;> subst h <;> exact rfl

/-- An access that reaches a physical address goes there. -/
theorem access_of_reaches (s : State) (w : Bool) (a : Word) (n : Nat) (pa e) (h : Reaches s a n pa e) :
    s.access w a n = .ok pa (s.touched w e) :=
  State.access_hit _ _ _ _ _ h.1 h.2.1 ((State.busError_eq_false _ _ _).2 h.2.2)

/-! ### String stores -/

theorem State.StringFrame.dataAddress {s t : State} (h : s.StringFrame t) (a : Word) :
    t.dataAddress a = s.dataAddress a := by
  obtain ⟨_, _, _, _, rfl⟩ := h.frame; rfl

theorem State.StringFrame.dataFails {s t : State} (h : s.StringFrame t) (pa : Word) :
    t.dataFails pa = s.dataFails pa := by
  obtain ⟨_, _, _, _, rfl⟩ := h.frame; rfl

/-- The elements stored so far do not change what translates (20_memory.md R86: D takes no part). -/
theorem State.StringFrame.lookup {s t : State} (h : s.StringFrame t) (sa : Word) : t.lookup sa = s.lookup sa := by
  have enabled : t.tlbEnabled = s.tlbEnabled := by obtain ⟨_, _, _, _, rfl⟩ := h.frame; rfl
  have asid : t.asid = s.asid := by obtain ⟨_, _, _, _, rfl⟩ := h.frame; rfl
  have regs : t.tlbRegs = s.tlbRegs := by obtain ⟨_, _, _, _, rfl⟩ := h.frame; rfl
  have hits : t.tlbHits s.asid (pageOf sa) = s.tlbHits s.asid (pageOf sa) := by
    unfold State.tlbHits
    congr 1
    funext i
    rw [h.entry i, regs]
    simp [TlbEntry.hits]
  unfold State.lookup
  rw [enabled, asid, hits, regs]
  split
  · split
    · rfl
    · next i _ => rw [h.entry i]; simp [TlbEntry.physical]
    · rfl
  · rfl

theorem State.StringFrame.reaches {s t : State} (h : s.StringFrame t) {a : Word} {n : Nat} {pa : Word}
    {e : Option (Fin 64)} (hr : Reaches s a n pa e) : Reaches t a n pa e :=
  ⟨hr.1, by rw [h.dataAddress, h.lookup]; exact hr.2.1, fun k hk => by rw [h.dataFails]; exact hr.2.2 k hk⟩

/-- The loop of a string store goes through the elements that reach the bus and then stands at the next one, the loop
counter reduced by their number (44_load_store.md R300 to R302). -/
theorem State.fill_of_reaches (s t : State) (h : s.StringFrame t) (v a : Word) (n m c : Nat) (pa : Nat → Word)
    (e : Nat → Option (Fin 64)) (hr : ∀ k < m, Reaches s (a + BitVec.ofNat 64 (n * k)) n (pa k) (e k)) :
    ∃ u, t.fill a v n (m + c) = u.fill (a + BitVec.ofNat 64 (n * m)) v n c ∧ s.StringFrame u ∧
      u.lc = t.lc - BitVec.ofNat 64 m := by
  induction m generalizing t a pa e with
  | zero => exact ⟨t, by simp, h, by simp⟩
  | succ m ih =>
    have h0 := h.reaches (hr 0 (Nat.succ_pos _))
    simp only [Nat.mul_zero, BitVec.add_zero, BitVec.ofNat_eq_ofNat] at h0
    have hw : t.memWrite a n v = .ok () ((t.touched true (e 0)).busWrite (pa 0) v n) := by
      unfold State.memWrite; rw [access_of_reaches t true _ _ _ _ h0]
    have assoc : ∀ k, a + BitVec.ofNat 64 n + BitVec.ofNat 64 (n * k) = a + BitVec.ofNat 64 (n * (k + 1)) := by
      intro k; rw [Nat.mul_succ, BitVec.ofNat_add]; ac_rfl
    obtain ⟨u, hu, hf, hl⟩ := ih _ (h.element (e 0) (pa 0) v (t.lc - 1) n) (a + BitVec.ofNat 64 n)
      (fun k => pa (k + 1)) (fun k => e (k + 1)) fun k hk => by rw [assoc]; exact hr (k + 1) (by omega)
    refine ⟨u, ?_, hf, ?_⟩
    · rw [← assoc, ← hu, show m + 1 + c = (m + c) + 1 by omega, State.fill, hw]
      simp
    · rw [hl, State.setLc_lc, BitVec.ofNat_add]
      bv_omega

/-! ### The bus -/

/-- A byte is below 256. -/
theorem busByte_lt (s : State) (pa) : (s.busByte pa).toNat < 256 := (s.busByte pa).isLt

/-- What the bus reads is the little-endian number (20_memory.md R73). -/
theorem busRead_littleEndian (s : State) (pa : Word) (n : Nat) (hn : n ≤ 8) :
    (s.busRead pa n).toNat = littleEndian s pa n ∧ littleEndian s pa n < 256 ^ n := by
  induction n with
  | zero => simp [State.busRead, littleEndian]
  | succ n ih =>
    obtain ⟨ih, hl⟩ := ih (by omega)
    have hb := busByte_lt s (pa + BitVec.ofNat 64 n)
    have hlt : littleEndian s pa n + (s.busByte (pa + BitVec.ofNat 64 n)).toNat * 256 ^ n < 256 ^ (n+1) := by
      rw [pow_succ]; nlinarith
    refine ⟨?_, hlt⟩
    have h256 : (256:Nat) ^ n = 2 ^ (8 * n) := by rw [pow_mul]; norm_num
    have h8 : (256:Nat)^(n+1) ≤ 2^64 := by
      calc (256:Nat)^(n+1) ≤ 256 ^ 8 := Nat.pow_le_pow_right (by norm_num) (by omega)
        _ = 2^64 := by norm_num
    simp only [State.busRead, littleEndian]
    rw [BitVec.toNat_or, ih, BitVec.toNat_shiftLeft, BitVec.toNat_setWidth]
    have hm : (s.busByte (pa + BitVec.ofNat 64 n)).toNat % 2 ^ 64 = (s.busByte (pa + BitVec.ofNat 64 n)).toNat :=
      Nat.mod_eq_of_lt (by omega)
    rw [hm, Nat.shiftLeft_eq, Nat.mod_eq_of_lt (by rw [← h256]; omega), Nat.or_comm, ← Nat.shiftLeft_eq,
      ← Nat.shiftLeft_add_eq_or_of_lt (by rw [← h256]; exact hl), Nat.shiftLeft_eq, h256]
    omega

/-- A special register write does what R341 says. -/
theorem sprWritten_of_sprWrite (s : State) (n : SprNum) (v : Word) (len : Nat) :
    SprWritten s ((s.sprWrite n v).advance len) n v len := by
  have cat : ∀ a b : BitVec 4, (a ++ b : BitVec 8).toNat = 16 * a.toNat + b.toNat := by decide
  have pcs : (s.sprWrite n v).pc = s.pc := by
    obtain ⟨-, h⟩ | ⟨-, h⟩ | ⟨-, h⟩ | ⟨r, -, h⟩ | ⟨r, -, h⟩ | ⟨-, -, -, -, -, h⟩ := State.sprWrite_cases s n v <;> rw [h] <;> simp
  have gb : ∀ r : BReg, r ≠ 15 → ((s.sprWrite n v).advance len).getBr r = (s.sprWrite n v).getBr r := by
    intro r hr
    by_cases h0 : r = 0
    · subst h0; rfl
    · rw [State.getBr_cell _ _ h0 hr, State.getBr_cell _ _ h0 hr]; rfl
  have gp : ∀ r, ((s.sprWrite n v).advance len).getP r = (s.sprWrite n v).getP r := fun _ => rfl
  have gs : ∀ r, ((s.sprWrite n v).advance len).getSeg r = (s.sprWrite n v).getSeg r := fun _ => rfl
  unfold SprWritten
  simp only [gp, gs]
  rw [State.advance_lc, State.advance_pc, pcs]
  have e8 : v.setWidth 8 = v.extractLsb' 0 8 := by ext i hi; simp [hi]
  obtain ⟨rfl, h⟩ | ⟨rfl, h⟩ | ⟨rfl, h⟩ | ⟨q, rfl, h⟩ | ⟨q, rfl, h⟩ | ⟨h3, h4, h6, hb, hs, h⟩ := State.sprWrite_cases s n v
  all_goals
    rw [h] at gb ⊢
    refine ⟨?_, ?_, ?_, ?_, ?_, rfl, ?_, ?_⟩
  · rfl
  · intro r; rfl
  · rfl
  · intro r hr; rw [gb r hr, if_neg (by rintro ⟨e, -⟩; have := r.isLt; simp at e; omega)]; rfl
  · intro r; rw [if_neg (by intro e; have := r.isLt; simp at e; omega)]; rfl
  · rfl
  · intro a; rfl
  · simp
  · intro r; rw [if_pos rfl]; exact State.getP_setPregs _ _ _
  · simp
  · intro r hr; rw [gb r hr, if_neg (by rintro ⟨e, -⟩; have := r.isLt; simp at e; omega)]; unfold State.getBr; simp
  · intro r; rw [if_neg (by intro e; have := r.isLt; simp at e; omega)]; unfold State.getSeg; simp
  · simp only [State.setPregs, State.advance, State.setPc]
  · intro a; simp
  · rfl
  · intro r; rfl
  · rw [if_pos rfl]; exact e8
  · intro r hr; rw [gb r hr, if_neg (by rintro ⟨e, -⟩; have := r.isLt; simp at e; omega)]; rfl
  · intro r; rw [if_neg (by intro e; have := r.isLt; simp at e; omega)]; rfl
  · rfl
  · intro a; rfl
  · rw [if_neg (by clear * -; revert q; decide)]; simp
  · intro r; rw [if_neg (by clear * -; revert q; decide)]; unfold State.getP; simp
  · rw [if_neg (by clear * -; revert q; decide)]; simp
  · intro r hr
    rw [gb r hr, State.getBr_setBr, cat]
    have : (16 * (1#4).toNat + q.toNat = 16 + r.toNat) ↔ r = q := by
      rw [← BitVec.toNat_inj]; simp; omega
    simp only [this, hr, ne_eq, not_false_eq_true, and_true]
  · intro r
    rw [if_neg (by rw [cat]; have := q.isLt; simp; omega)]; unfold State.getSeg; simp
  · rw [show s.setBr q v = { s with br := (s.setBr q v).br } from by unfold State.setBr; split <;> rfl]; rfl
  · intro a; simp
  · rw [if_neg (by clear * -; revert q; decide)]; simp
  · intro r; rw [if_neg (by clear * -; revert q; decide)]; unfold State.getP; simp
  · rw [if_neg (by clear * -; revert q; decide)]; simp
  · intro r hr
    rw [gb r hr, if_neg (by rintro ⟨e, -⟩; rw [cat] at e; have := r.isLt; simp at e; omega)]; rfl
  · intro r
    rw [State.getSeg_setSeg, cat]
    have : (16 * (2#4).toNat + q.toNat = 32 + r.toNat) ↔ r = q := by
      rw [← BitVec.toNat_inj]; simp; omega
    simp only [this]
  · rfl
  · intro a; simp
  · rw [if_neg h3]
  · intro r; rw [if_neg h4]
  · rw [if_neg h6]; rfl
  · intro r hr
    rw [gb r hr, if_neg]
    rintro ⟨e, -⟩; apply hb
    have : n = BitVec.ofNat 8 (16 + r.toNat) := by apply BitVec.eq_of_toNat_eq; rw [e]; have := r.isLt; simp; omega
    subst this; clear * -; revert r; decide
  · intro r
    rw [if_neg]
    intro e; apply hs
    have : n = BitVec.ofNat 8 (32 + r.toNat) := by apply BitVec.eq_of_toNat_eq; rw [e]; have := r.isLt; simp; omega
    subst this; clear * -; revert r; decide
  · rfl
  · intro a; simp

/-- Two page numbers name one page exactly when they agree above the page offset (20_memory.md R86). -/
theorem samePage_iff (n : BitVec 3) (v w : BitVec 52) :
    samePage n v w = true ↔ ∀ k < 52, 2 * n.toNat ≤ k → v.getLsbD k = w.getLsbD k := by
  unfold samePage pageBits
  rw [beq_iff_eq]
  constructor
  · intro h k hk hn
    have := congrArg (fun x => x.getLsbD (k - 2 * n.toNat)) h
    simp only [BitVec.getLsbD_ushiftRight] at this
    rw [show 2 * n.toNat + (k - 2 * n.toNat) = k by omega] at this
    exact this
  · intro h
    apply BitVec.eq_of_getLsbD_eq
    intro i hi
    simp only [BitVec.getLsbD_ushiftRight]
    by_cases h2 : 2 * n.toNat + i < 52
    · exact h _ h2 (by omega)
    · rw [BitVec.getLsbD_of_ge _ _ (by omega), BitVec.getLsbD_of_ge _ _ (by omega)]

/-- Which entries match. -/
theorem mem_tlbHits_iff (s : State) (asid vpn) (i : Fin 64) :
    i ∈ s.tlbHits asid vpn ↔ (s.tlb[i.val]'i.isLt).v = true ∧
      ((s.tlb[i.val]'i.isLt).g = true ∨ (s.tlb[i.val]'i.isLt).asid = asid) ∧
      ∀ k < 52, 2 * s.tlbRegs.pageSize.toNat ≤ k → (s.tlb[i.val]'i.isLt).vpn.getLsbD k = vpn.getLsbD k := by
  unfold State.tlbHits
  rw [List.mem_filter]
  simp only [List.mem_finRange, true_and, TlbEntry.hits, Bool.and_eq_true, Bool.or_eq_true, beq_iff_eq, samePage_iff, and_assoc]

/-- One bit of the mask of a page size. -/
theorem pageMask_bit (n : BitVec 3) (k : Nat) (hk : k < 52) : (pageMask n).getLsbD k = decide (k < 2 * n.toNat) := by
  unfold pageMask pageBits
  rw [BitVec.getLsbD_ofNat, Nat.testBit_two_pow_sub_one]; simp [hk]

/-- The entry a probe picks is one that matches; it picks none only when none does (45_system.md R353). -/
theorem pickHit_cases (hits : List (Fin 64)) (draw : Nat) :
    (hits = [] ∧ pickHit hits draw = none) ∨ ∃ i ∈ hits, pickHit hits draw = some i := by
  match hits with
  | [] => exact .inl ⟨rfl, rfl⟩
  | [i] => exact .inr ⟨i, by simp, rfl⟩
  | i :: j :: r =>
    have h : draw % (r.length + 2) < (i :: j :: r).length := Nat.mod_lt _ (Nat.succ_pos _)
    exact .inr ⟨_, List.getElem_mem h, List.getElem?_eq_getElem _⟩

end Sys2Proof.Machine
end

