-- ==== Sys2Proof/Laws/PerInstr.lean ====
section
/-!
SUPPORT. The family Encoding, instruction by instruction: an instruction's bytes are at least one and at most fifteen
(30_encoding.md R113, R115).
-/

namespace Sys2Proof.Laws

/-- The encoding has a length that the decoder allows for. -/
def Encoding.Statement (i : Instr) : Prop :=
  1 ≤ (encode i).length ∧ (encode i).length ≤ maxBytes

/-- The bytes behind a prefix are four to seven. -/
theorem ext_encode_length (e : Ext) : 4 ≤ e.encode.length ∧ e.encode.length ≤ 7 := by
  cases e <;> exact ⟨Nat.le_of_ble_eq_true rfl, Nat.le_of_ble_eq_true rfl⟩

/-- A prefix's instruction is its bytes before those of the instruction it extends. -/
theorem encoding_prefixed (i : Instr) (l : List Byte) (e : Ext) (h : encode i = l ++ e.encode)
    (h1 : 1 ≤ l.length) (h8 : l.length ≤ 8) : Encoding.Statement i := by
  have he := ext_encode_length e
  unfold Encoding.Statement maxBytes
  rw [h, List.length_append]
  omega

theorem Encoding.brk : Encoding.Statement (.brk) := ⟨Nat.le_of_ble_eq_true rfl, Nat.le_of_ble_eq_true rfl⟩
theorem Encoding.nop : Encoding.Statement (.nop) := ⟨Nat.le_of_ble_eq_true rfl, Nat.le_of_ble_eq_true rfl⟩
theorem Encoding.rtsShort : Encoding.Statement (.rtsShort) := ⟨Nat.le_of_ble_eq_true rfl, Nat.le_of_ble_eq_true rfl⟩
theorem Encoding.imm16 (k e) : Encoding.Statement (.imm16 k e) :=
  encoding_prefixed _ ((encode (.imm16 k e)).take 2) e rfl (Nat.le_of_ble_eq_true rfl) (Nat.le_of_ble_eq_true rfl)
theorem Encoding.imm24 (k e) : Encoding.Statement (.imm24 k e) :=
  encoding_prefixed _ ((encode (.imm24 k e)).take 3) e rfl (Nat.le_of_ble_eq_true rfl) (Nat.le_of_ble_eq_true rfl)
theorem Encoding.imm32 (k e) : Encoding.Statement (.imm32 k e) :=
  encoding_prefixed _ ((encode (.imm32 k e)).take 4) e rfl (Nat.le_of_ble_eq_true rfl) (Nat.le_of_ble_eq_true rfl)
theorem Encoding.imm40 (k e) : Encoding.Statement (.imm40 k e) :=
  encoding_prefixed _ ((encode (.imm40 k e)).take 5) e rfl (Nat.le_of_ble_eq_true rfl) (Nat.le_of_ble_eq_true rfl)
theorem Encoding.imm48 (k e) : Encoding.Statement (.imm48 k e) :=
  encoding_prefixed _ ((encode (.imm48 k e)).take 6) e rfl (Nat.le_of_ble_eq_true rfl) (Nat.le_of_ble_eq_true rfl)
theorem Encoding.imm56 (k e) : Encoding.Statement (.imm56 k e) :=
  encoding_prefixed _ ((encode (.imm56 k e)).take 7) e rfl (Nat.le_of_ble_eq_true rfl) (Nat.le_of_ble_eq_true rfl)
theorem Encoding.imm64 (k e) : Encoding.Statement (.imm64 k e) :=
  encoding_prefixed _ ((encode (.imm64 k e)).take 8) e rfl (Nat.le_of_ble_eq_true rfl) (Nat.le_of_ble_eq_true rfl)
theorem Encoding.tst (a b c) : Encoding.Statement (.tst a b c) := ⟨Nat.le_of_ble_eq_true rfl, Nat.le_of_ble_eq_true rfl⟩
theorem Encoding.cmp (a b c d) : Encoding.Statement (.cmp a b c d) := ⟨Nat.le_of_ble_eq_true rfl, Nat.le_of_ble_eq_true rfl⟩
theorem Encoding.cmpi (a b c d) : Encoding.Statement (.cmpi a b c d) := ⟨Nat.le_of_ble_eq_true rfl, Nat.le_of_ble_eq_true rfl⟩
theorem Encoding.br (a b) : Encoding.Statement (.br a b) := ⟨Nat.le_of_ble_eq_true rfl, Nat.le_of_ble_eq_true rfl⟩
theorem Encoding.add (a b c d) : Encoding.Statement (.add a b c d) := ⟨Nat.le_of_ble_eq_true rfl, Nat.le_of_ble_eq_true rfl⟩
theorem Encoding.sub (a b c d) : Encoding.Statement (.sub a b c d) := ⟨Nat.le_of_ble_eq_true rfl, Nat.le_of_ble_eq_true rfl⟩
theorem Encoding.addu (a b c d) : Encoding.Statement (.addu a b c d) := ⟨Nat.le_of_ble_eq_true rfl, Nat.le_of_ble_eq_true rfl⟩
theorem Encoding.subu (a b c d) : Encoding.Statement (.subu a b c d) := ⟨Nat.le_of_ble_eq_true rfl, Nat.le_of_ble_eq_true rfl⟩
theorem Encoding.and (a b c d) : Encoding.Statement (.and a b c d) := ⟨Nat.le_of_ble_eq_true rfl, Nat.le_of_ble_eq_true rfl⟩
theorem Encoding.or (a b c d) : Encoding.Statement (.or a b c d) := ⟨Nat.le_of_ble_eq_true rfl, Nat.le_of_ble_eq_true rfl⟩
theorem Encoding.eor (a b c d) : Encoding.Statement (.eor a b c d) := ⟨Nat.le_of_ble_eq_true rfl, Nat.le_of_ble_eq_true rfl⟩
theorem Encoding.addu2 (a b c d) : Encoding.Statement (.addu2 a b c d) := ⟨Nat.le_of_ble_eq_true rfl, Nat.le_of_ble_eq_true rfl⟩
theorem Encoding.addu4 (a b c d) : Encoding.Statement (.addu4 a b c d) := ⟨Nat.le_of_ble_eq_true rfl, Nat.le_of_ble_eq_true rfl⟩
theorem Encoding.addu8 (a b c d) : Encoding.Statement (.addu8 a b c d) := ⟨Nat.le_of_ble_eq_true rfl, Nat.le_of_ble_eq_true rfl⟩
theorem Encoding.addu16 (a b c d) : Encoding.Statement (.addu16 a b c d) := ⟨Nat.le_of_ble_eq_true rfl, Nat.le_of_ble_eq_true rfl⟩
theorem Encoding.addi (a b c d) : Encoding.Statement (.addi a b c d) := ⟨Nat.le_of_ble_eq_true rfl, Nat.le_of_ble_eq_true rfl⟩
theorem Encoding.subi (a b c d) : Encoding.Statement (.subi a b c d) := ⟨Nat.le_of_ble_eq_true rfl, Nat.le_of_ble_eq_true rfl⟩
theorem Encoding.addui (a b c d) : Encoding.Statement (.addui a b c d) := ⟨Nat.le_of_ble_eq_true rfl, Nat.le_of_ble_eq_true rfl⟩
theorem Encoding.subui (a b c d) : Encoding.Statement (.subui a b c d) := ⟨Nat.le_of_ble_eq_true rfl, Nat.le_of_ble_eq_true rfl⟩
theorem Encoding.andi (a b c d) : Encoding.Statement (.andi a b c d) := ⟨Nat.le_of_ble_eq_true rfl, Nat.le_of_ble_eq_true rfl⟩
theorem Encoding.ori (a b c d) : Encoding.Statement (.ori a b c d) := ⟨Nat.le_of_ble_eq_true rfl, Nat.le_of_ble_eq_true rfl⟩
theorem Encoding.eori (a b c d) : Encoding.Statement (.eori a b c d) := ⟨Nat.le_of_ble_eq_true rfl, Nat.le_of_ble_eq_true rfl⟩
theorem Encoding.addui2 (a b c d) : Encoding.Statement (.addui2 a b c d) := ⟨Nat.le_of_ble_eq_true rfl, Nat.le_of_ble_eq_true rfl⟩
theorem Encoding.addui4 (a b c d) : Encoding.Statement (.addui4 a b c d) := ⟨Nat.le_of_ble_eq_true rfl, Nat.le_of_ble_eq_true rfl⟩
theorem Encoding.addui8 (a b c d) : Encoding.Statement (.addui8 a b c d) := ⟨Nat.le_of_ble_eq_true rfl, Nat.le_of_ble_eq_true rfl⟩
theorem Encoding.addui16 (a b c d) : Encoding.Statement (.addui16 a b c d) := ⟨Nat.le_of_ble_eq_true rfl, Nat.le_of_ble_eq_true rfl⟩
theorem Encoding.lea (a b c d) : Encoding.Statement (.lea a b c d) := ⟨Nat.le_of_ble_eq_true rfl, Nat.le_of_ble_eq_true rfl⟩
theorem Encoding.ldi (a b c) : Encoding.Statement (.ldi a b c) := ⟨Nat.le_of_ble_eq_true rfl, Nat.le_of_ble_eq_true rfl⟩
theorem Encoding.ldit8 (a b c) : Encoding.Statement (.ldit8 a b c) := ⟨Nat.le_of_ble_eq_true rfl, Nat.le_of_ble_eq_true rfl⟩
theorem Encoding.ldis (a b c) : Encoding.Statement (.ldis a b c) := ⟨Nat.le_of_ble_eq_true rfl, Nat.le_of_ble_eq_true rfl⟩
theorem Encoding.neg (a b c) : Encoding.Statement (.neg a b c) := ⟨Nat.le_of_ble_eq_true rfl, Nat.le_of_ble_eq_true rfl⟩
theorem Encoding.mov (a b c) : Encoding.Statement (.mov a b c) := ⟨Nat.le_of_ble_eq_true rfl, Nat.le_of_ble_eq_true rfl⟩
theorem Encoding.mfspr (a b c) : Encoding.Statement (.mfspr a b c) := ⟨Nat.le_of_ble_eq_true rfl, Nat.le_of_ble_eq_true rfl⟩
theorem Encoding.mtspr (a b c) : Encoding.Statement (.mtspr a b c) := ⟨Nat.le_of_ble_eq_true rfl, Nat.le_of_ble_eq_true rfl⟩
theorem Encoding.movs (a b c) : Encoding.Statement (.movs a b c) := ⟨Nat.le_of_ble_eq_true rfl, Nat.le_of_ble_eq_true rfl⟩
theorem Encoding.stsb (a b c) : Encoding.Statement (.stsb a b c) := ⟨Nat.le_of_ble_eq_true rfl, Nat.le_of_ble_eq_true rfl⟩
theorem Encoding.stsw (a b c) : Encoding.Statement (.stsw a b c) := ⟨Nat.le_of_ble_eq_true rfl, Nat.le_of_ble_eq_true rfl⟩
theorem Encoding.mux (a b c d e) : Encoding.Statement (.mux a b c d e) := ⟨Nat.le_of_ble_eq_true rfl, Nat.le_of_ble_eq_true rfl⟩
theorem Encoding.lb (a b c d) : Encoding.Statement (.lb a b c d) := ⟨Nat.le_of_ble_eq_true rfl, Nat.le_of_ble_eq_true rfl⟩
theorem Encoding.lbu (a b c d) : Encoding.Statement (.lbu a b c d) := ⟨Nat.le_of_ble_eq_true rfl, Nat.le_of_ble_eq_true rfl⟩
theorem Encoding.lc (a b c d) : Encoding.Statement (.lc a b c d) := ⟨Nat.le_of_ble_eq_true rfl, Nat.le_of_ble_eq_true rfl⟩
theorem Encoding.lcu (a b c d) : Encoding.Statement (.lcu a b c d) := ⟨Nat.le_of_ble_eq_true rfl, Nat.le_of_ble_eq_true rfl⟩
theorem Encoding.lh (a b c d) : Encoding.Statement (.lh a b c d) := ⟨Nat.le_of_ble_eq_true rfl, Nat.le_of_ble_eq_true rfl⟩
theorem Encoding.lhu (a b c d) : Encoding.Statement (.lhu a b c d) := ⟨Nat.le_of_ble_eq_true rfl, Nat.le_of_ble_eq_true rfl⟩
theorem Encoding.lw (a b c d) : Encoding.Statement (.lw a b c d) := ⟨Nat.le_of_ble_eq_true rfl, Nat.le_of_ble_eq_true rfl⟩
theorem Encoding.lws (a b c d) : Encoding.Statement (.lws a b c d) := ⟨Nat.le_of_ble_eq_true rfl, Nat.le_of_ble_eq_true rfl⟩
theorem Encoding.sb (a b c d) : Encoding.Statement (.sb a b c d) := ⟨Nat.le_of_ble_eq_true rfl, Nat.le_of_ble_eq_true rfl⟩
theorem Encoding.sc (a b c d) : Encoding.Statement (.sc a b c d) := ⟨Nat.le_of_ble_eq_true rfl, Nat.le_of_ble_eq_true rfl⟩
theorem Encoding.sh (a b c d) : Encoding.Statement (.sh a b c d) := ⟨Nat.le_of_ble_eq_true rfl, Nat.le_of_ble_eq_true rfl⟩
theorem Encoding.sw (a b c d) : Encoding.Statement (.sw a b c d) := ⟨Nat.le_of_ble_eq_true rfl, Nat.le_of_ble_eq_true rfl⟩
theorem Encoding.sws (a b c d) : Encoding.Statement (.sws a b c d) := ⟨Nat.le_of_ble_eq_true rfl, Nat.le_of_ble_eq_true rfl⟩
theorem Encoding.sti (a b c d) : Encoding.Statement (.sti a b c d) := ⟨Nat.le_of_ble_eq_true rfl, Nat.le_of_ble_eq_true rfl⟩
theorem Encoding.cas (a b c d e f) : Encoding.Statement (.cas a b c d e f) := ⟨Nat.le_of_ble_eq_true rfl, Nat.le_of_ble_eq_true rfl⟩
theorem Encoding.lvb (a b c d) : Encoding.Statement (.lvb a b c d) := ⟨Nat.le_of_ble_eq_true rfl, Nat.le_of_ble_eq_true rfl⟩
theorem Encoding.lvc (a b c d) : Encoding.Statement (.lvc a b c d) := ⟨Nat.le_of_ble_eq_true rfl, Nat.le_of_ble_eq_true rfl⟩
theorem Encoding.lvh (a b c d) : Encoding.Statement (.lvh a b c d) := ⟨Nat.le_of_ble_eq_true rfl, Nat.le_of_ble_eq_true rfl⟩
theorem Encoding.lvw (a b c d) : Encoding.Statement (.lvw a b c d) := ⟨Nat.le_of_ble_eq_true rfl, Nat.le_of_ble_eq_true rfl⟩
theorem Encoding.lbx (a b c d) : Encoding.Statement (.lbx a b c d) := ⟨Nat.le_of_ble_eq_true rfl, Nat.le_of_ble_eq_true rfl⟩
theorem Encoding.lbux (a b c d) : Encoding.Statement (.lbux a b c d) := ⟨Nat.le_of_ble_eq_true rfl, Nat.le_of_ble_eq_true rfl⟩
theorem Encoding.lcx (a b c d) : Encoding.Statement (.lcx a b c d) := ⟨Nat.le_of_ble_eq_true rfl, Nat.le_of_ble_eq_true rfl⟩
theorem Encoding.lcux (a b c d) : Encoding.Statement (.lcux a b c d) := ⟨Nat.le_of_ble_eq_true rfl, Nat.le_of_ble_eq_true rfl⟩
theorem Encoding.lhx (a b c d) : Encoding.Statement (.lhx a b c d) := ⟨Nat.le_of_ble_eq_true rfl, Nat.le_of_ble_eq_true rfl⟩
theorem Encoding.lhux (a b c d) : Encoding.Statement (.lhux a b c d) := ⟨Nat.le_of_ble_eq_true rfl, Nat.le_of_ble_eq_true rfl⟩
theorem Encoding.lwx (a b c d) : Encoding.Statement (.lwx a b c d) := ⟨Nat.le_of_ble_eq_true rfl, Nat.le_of_ble_eq_true rfl⟩
theorem Encoding.sbx (a b c d) : Encoding.Statement (.sbx a b c d) := ⟨Nat.le_of_ble_eq_true rfl, Nat.le_of_ble_eq_true rfl⟩
theorem Encoding.scx (a b c d) : Encoding.Statement (.scx a b c d) := ⟨Nat.le_of_ble_eq_true rfl, Nat.le_of_ble_eq_true rfl⟩
theorem Encoding.shx (a b c d) : Encoding.Statement (.shx a b c d) := ⟨Nat.le_of_ble_eq_true rfl, Nat.le_of_ble_eq_true rfl⟩
theorem Encoding.swx (a b c d) : Encoding.Statement (.swx a b c d) := ⟨Nat.le_of_ble_eq_true rfl, Nat.le_of_ble_eq_true rfl⟩
theorem Encoding.jsr (a b c d) : Encoding.Statement (.jsr a b c d) := ⟨Nat.le_of_ble_eq_true rfl, Nat.le_of_ble_eq_true rfl⟩
theorem Encoding.bsr (a b c) : Encoding.Statement (.bsr a b c) := ⟨Nat.le_of_ble_eq_true rfl, Nat.le_of_ble_eq_true rfl⟩
theorem Encoding.jmp (a b c) : Encoding.Statement (.jmp a b c) := ⟨Nat.le_of_ble_eq_true rfl, Nat.le_of_ble_eq_true rfl⟩
theorem Encoding.rts (a b c) : Encoding.Statement (.rts a b c) := ⟨Nat.le_of_ble_eq_true rfl, Nat.le_of_ble_eq_true rfl⟩
theorem Encoding.loop (a b) : Encoding.Statement (.loop a b) := ⟨Nat.le_of_ble_eq_true rfl, Nat.le_of_ble_eq_true rfl⟩
theorem Encoding.sys (a b) : Encoding.Statement (.sys a b) := ⟨Nat.le_of_ble_eq_true rfl, Nat.le_of_ble_eq_true rfl⟩
theorem Encoding.int (a b) : Encoding.Statement (.int a b) := ⟨Nat.le_of_ble_eq_true rfl, Nat.le_of_ble_eq_true rfl⟩
theorem Encoding.bfins (a b c d e) : Encoding.Statement (.bfins a b c d e) := ⟨Nat.le_of_ble_eq_true rfl, Nat.le_of_ble_eq_true rfl⟩
theorem Encoding.bfset (a b c d e) : Encoding.Statement (.bfset a b c d e) := ⟨Nat.le_of_ble_eq_true rfl, Nat.le_of_ble_eq_true rfl⟩
theorem Encoding.bfclr (a b c d e) : Encoding.Statement (.bfclr a b c d e) := ⟨Nat.le_of_ble_eq_true rfl, Nat.le_of_ble_eq_true rfl⟩
theorem Encoding.bfchg (a b c d e) : Encoding.Statement (.bfchg a b c d e) := ⟨Nat.le_of_ble_eq_true rfl, Nat.le_of_ble_eq_true rfl⟩
theorem Encoding.bfextu (a b c d e) : Encoding.Statement (.bfextu a b c d e) := ⟨Nat.le_of_ble_eq_true rfl, Nat.le_of_ble_eq_true rfl⟩
theorem Encoding.bfext (a b c d e) : Encoding.Statement (.bfext a b c d e) := ⟨Nat.le_of_ble_eq_true rfl, Nat.le_of_ble_eq_true rfl⟩
theorem Encoding.tlbnop (a b c) : Encoding.Statement (.tlbnop a b c) := ⟨Nat.le_of_ble_eq_true rfl, Nat.le_of_ble_eq_true rfl⟩
theorem Encoding.tlbpb (a b c) : Encoding.Statement (.tlbpb a b c) := ⟨Nat.le_of_ble_eq_true rfl, Nat.le_of_ble_eq_true rfl⟩
theorem Encoding.tlbrd (a b c) : Encoding.Statement (.tlbrd a b c) := ⟨Nat.le_of_ble_eq_true rfl, Nat.le_of_ble_eq_true rfl⟩
theorem Encoding.tlbwr (a b c) : Encoding.Statement (.tlbwr a b c) := ⟨Nat.le_of_ble_eq_true rfl, Nat.le_of_ble_eq_true rfl⟩
theorem Encoding.tlbwi (a b c) : Encoding.Statement (.tlbwi a b c) := ⟨Nat.le_of_ble_eq_true rfl, Nat.le_of_ble_eq_true rfl⟩
theorem Encoding.tlben (a b c) : Encoding.Statement (.tlben a b c) := ⟨Nat.le_of_ble_eq_true rfl, Nat.le_of_ble_eq_true rfl⟩
theorem Encoding.tlbdis (a b c) : Encoding.Statement (.tlbdis a b c) := ⟨Nat.le_of_ble_eq_true rfl, Nat.le_of_ble_eq_true rfl⟩
theorem Encoding.tlbrdreg (a b c) : Encoding.Statement (.tlbrdreg a b c) := ⟨Nat.le_of_ble_eq_true rfl, Nat.le_of_ble_eq_true rfl⟩
theorem Encoding.tlbwrreg (a b c) : Encoding.Statement (.tlbwrreg a b c) := ⟨Nat.le_of_ble_eq_true rfl, Nat.le_of_ble_eq_true rfl⟩
theorem Encoding.rte (a) : Encoding.Statement (.rte a) := ⟨Nat.le_of_ble_eq_true rfl, Nat.le_of_ble_eq_true rfl⟩
theorem Encoding.rti (a) : Encoding.Statement (.rti a) := ⟨Nat.le_of_ble_eq_true rfl, Nat.le_of_ble_eq_true rfl⟩
theorem Encoding.memsb (a) : Encoding.Statement (.memsb a) := ⟨Nat.le_of_ble_eq_true rfl, Nat.le_of_ble_eq_true rfl⟩
theorem Encoding.memdb (a) : Encoding.Statement (.memdb a) := ⟨Nat.le_of_ble_eq_true rfl, Nat.le_of_ble_eq_true rfl⟩
theorem Encoding.cli (a) : Encoding.Statement (.cli a) := ⟨Nat.le_of_ble_eq_true rfl, Nat.le_of_ble_eq_true rfl⟩
theorem Encoding.sei (a) : Encoding.Statement (.sei a) := ⟨Nat.le_of_ble_eq_true rfl, Nat.le_of_ble_eq_true rfl⟩
theorem Encoding.bcdadd (a b c d) : Encoding.Statement (.bcdadd a b c d) := ⟨Nat.le_of_ble_eq_true rfl, Nat.le_of_ble_eq_true rfl⟩
theorem Encoding.bcdsub (a b c d) : Encoding.Statement (.bcdsub a b c d) := ⟨Nat.le_of_ble_eq_true rfl, Nat.le_of_ble_eq_true rfl⟩
theorem Encoding.bcdmul (a b c d) : Encoding.Statement (.bcdmul a b c d) := ⟨Nat.le_of_ble_eq_true rfl, Nat.le_of_ble_eq_true rfl⟩

end Sys2Proof.Laws
end

