-- ==== Sys2Proof/Tests/Slice0.lean ====
section
/-!
SUPPORT. Our own tests: the smoke test of well-formedness, the words of the spec and what they decode to, single steps
whose results are those of 95_test_vectors.md or follow by hand from the rules, and a witness for the hypotheses of
every statement.
-/

namespace Sys2Proof.Tests

open Sys2Proof Sys2Proof.Machine

/-! ### Helpers -/

/-- A platform with a device at A000h and nothing at B000h, and an overflow vector of 7. -/
def platform : Config :=
  { segmentation := true, mid := 0x1234, feat := 0x5678, overflowVector := 7,
    memoryMap := [⟨0xB000, 0xBFFF, .absent⟩, ⟨0xA000, 0xAFFF, .device⟩] }

/-- The start state of 95_test_vectors.md: pc 1000h, kernel mode, all else 0, no pin asserted. -/
def base : State := { State.reset with pc := 0x1000, sr := 0xA000, schedule := [Pins.low], cfg := platform }

/-- Bytes placed in physical memory. -/
def put (s : State) (a : Nat) : List Byte → State
  | [] => s
  | b :: r => put { s with mem := Memory.write s.mem a b } (a + 1) r

/-- Bytes of physical memory. -/
def peek (s : State) (a : Nat) : Nat → List Byte
  | 0 => []
  | n + 1 => Memory.read s.mem a :: peek s (a + 1) n

/-- The step that runs the bytes `code` at the pc ends in a state with `q`. -/
def gives (s : State) (code : List Byte) (q : State → Bool) : Bool :=
  match step (put s s.pc.toNat code) with
  | .next t => q t
  | _ => false

/-- The step that runs `code` faults with `f`. -/
def faults (s : State) (code : List Byte) (f : Fault) : Bool :=
  match step (put s s.pc.toNat code) with
  | .fault g => g == f
  | _ => false

/-- The step that runs `code` is refused with `r`. -/
def refuses (s : State) (code : List Byte) (r : Refusal) : Bool :=
  match step (put s s.pc.toNat code) with
  | .refused q => q == r
  | _ => false

/-- A vector base at FFFF_FFFF_FFFF_0000h. -/
def handled : State := base.setBr 12 0xFFFFFFFFFFFF0000

/-- The bytes that the load vectors read, at 2000h. -/
def loadable : State :=
  put (put (put base 0x2000 [0x34, 0x92]) 0x2004 [0xFE]) 0x2008 [0xF0, 0xDE, 0xBC, 0x9A, 0x78, 0x56, 0x34, 0x12]

/-- 32 bytes AAh at 3000h for the store vectors. -/
def storable : State := put base 0x3000 (List.replicate 32 0xAA)

/-- TLB entry 3 of the vectors: page 10h of address space 5 at 80h. -/
def entry3 : TlbEntry := { c := 0, g := false, d := false, v := true, asid := 5, vpn := 0x10, ppn := 0x80 }

/-- Translation on: a global page 1 at 1 in entry 0 and `entry3`, address space 5, IM clear. -/
def mapped : State :=
  { handled with
    sr := 0x2000, asid := 5, tlbEnabled := true
    tlb := (State.reset.tlb.set 0 { TlbEntry.zero with g := true, v := true, vpn := 1, ppn := 1 }).set 3 entry3 }

/-- `entry3` alone, translation off. -/
def withEntry3 : State := { base with tlb := State.reset.tlb.set 3 entry3 }

/-- The TLB registers that hold `entry3`, and its number. -/
def holding : TlbRegs :=
  { TlbRegs.zero with virtPage := 0x10, physPage := 0x80, index := 3, asid := ⟨5, 0, false, false, true⟩ }

/-! ### Well-formedness: what it refuses -/

theorem test_wf_refuses_condition_pf : (Instr.add ⟨3, .pf⟩ 1 2 3).wf = false := by decide

theorem test_wf_refuses_p1_always : (Instr.add ⟨1, .pt⟩ 1 2 3).wf = false := by decide

theorem test_wf_refuses_behind_a_prefixed_byte :
    (Instr.imm16 0x12 (.ldi ⟨0, .pf⟩ 1 2)).wf = false ∧ (Instr.imm64 0x12 (.ldi ⟨1, .pt⟩ 1 2)).wf = false := by decide

theorem test_wf_accepts : (Instr.add ⟨0, .pt⟩ 1 2 3).wf = true ∧ (Instr.add ⟨2, .pt⟩ 1 2 3).wf = true ∧
    (Instr.add ⟨1, .peq⟩ 1 2 3).wf = true ∧ Instr.brk.wf = true := by decide

/-! ### Words written out from the encodings of 30_encoding.md and what they decode to: every constructor -/

/-- One-byte instructions (R111); what follows does not count. -/
theorem test_decode_one_byte : decode [0x00, 0xFF] = .instr .brk 1 ∧ decode [0x10, 0xFF] = .instr .nop 1 ∧
    decode [0x11, 0xFF] = .instr .rtsShort 1 := by decide

/-- Prefixes, low immediate byte first (R114, R116, R117). -/
theorem test_decode_prefixes :
    decode [0x20, 0x12, 0x01, 0x6F, 0x01, 0xF0] = .instr (.imm16 0x12 (.ldi ⟨0, .pt⟩ 1 0xF0)) 6 ∧
    decode [0x30, 0x34, 0x12, 0x02, 0x9D, 0x1C, 0xF0] = .instr (.imm24 0x1234 (.ldis ⟨0, .peq⟩ 0x1C 0xF0)) 7 ∧
    decode [0x40, 0x56, 0x34, 0x12, 0x01, 0xA2, 0x21, 0x78, 0x9A, 0xBC] =
      .instr (.imm32 0x123456 (.jsr ⟨0, .pt⟩ 1 2 0xBC9A78)) 10 ∧
    decode [0x50, 0x78, 0x56, 0x34, 0x12, 0x01, 0x20, 0x03, 0x9A] =
      .instr (.imm40 0x12345678 (.cmpi ⟨0, .pt⟩ 0 3 0x9A)) 9 ∧
    decode [0x60, 0x9A, 0x78, 0x56, 0x34, 0x12, 0x01, 0x86, 0x01, 0x02, 0xBC] =
      .instr (.imm48 0x123456789A (.load .lw ⟨0, .pt⟩ 1 2 0xBC)) 11 ∧
    decode [0x70, 0xBC, 0x9A, 0x78, 0x56, 0x34, 0x12, 0x01, 0x93, 0x01, 0x02, 0xDE] =
      .instr (.imm56 0x123456789ABC (.store .sw ⟨0, .pt⟩ 1 2 0xDE)) 12 ∧
    decode [0x80, 0xDE, 0xBC, 0x9A, 0x78, 0x56, 0x34, 0x12, 0x01, 0x97, 0x01, 0x02, 0x03, 0x04, 0xF0] =
      .instr (.imm64 0x123456789ABCDE (.cas ⟨0, .pt⟩ 1 2 3 4 0xF0)) 15 := by decide

/-- Every other opcode that accepts a prefix (R119). -/
theorem test_decode_extended :
    decode [0x20, 0x12, 0x01, 0x48, 0x01, 0x02, 0x34] = .instr (.imm16 0x12 (.alu .addi ⟨0, .pt⟩ 1 2 0x34)) 7 ∧
    decode [0x20, 0x12, 0x01, 0x49, 0x01, 0x02, 0x34] = .instr (.imm16 0x12 (.alu .subi ⟨0, .pt⟩ 1 2 0x34)) 7 ∧
    decode [0x20, 0x12, 0x01, 0x4C, 0x01, 0x02, 0x34] = .instr (.imm16 0x12 (.alu .addui ⟨0, .pt⟩ 1 2 0x34)) 7 ∧
    decode [0x20, 0x12, 0x01, 0x4D, 0x01, 0x02, 0x34] = .instr (.imm16 0x12 (.alu .subui ⟨0, .pt⟩ 1 2 0x34)) 7 ∧
    decode [0x20, 0x12, 0x01, 0x53, 0x01, 0x02, 0x34] = .instr (.imm16 0x12 (.alu .andi ⟨0, .pt⟩ 1 2 0x34)) 7 ∧
    decode [0x20, 0x12, 0x01, 0x54, 0x01, 0x02, 0x34] = .instr (.imm16 0x12 (.alu .ori ⟨0, .pt⟩ 1 2 0x34)) 7 ∧
    decode [0x20, 0x12, 0x01, 0x55, 0x01, 0x02, 0x34] = .instr (.imm16 0x12 (.alu .eori ⟨0, .pt⟩ 1 2 0x34)) 7 ∧
    decode [0x20, 0x12, 0x01, 0x6B, 0x01, 0x02, 0x34] = .instr (.imm16 0x12 (.alu .addui2 ⟨0, .pt⟩ 1 2 0x34)) 7 ∧
    decode [0x20, 0x12, 0x01, 0x6C, 0x01, 0x02, 0x34] = .instr (.imm16 0x12 (.alu .addui4 ⟨0, .pt⟩ 1 2 0x34)) 7 ∧
    decode [0x20, 0x12, 0x01, 0x6D, 0x01, 0x02, 0x34] = .instr (.imm16 0x12 (.alu .addui8 ⟨0, .pt⟩ 1 2 0x34)) 7 ∧
    decode [0x20, 0x12, 0x01, 0x6E, 0x01, 0x02, 0x34] = .instr (.imm16 0x12 (.alu .addui16 ⟨0, .pt⟩ 1 2 0x34)) 7 ∧
    decode [0x20, 0x12, 0x01, 0x80, 0x01, 0x02, 0x34] = .instr (.imm16 0x12 (.load .lb ⟨0, .pt⟩ 1 2 0x34)) 7 ∧
    decode [0x20, 0x12, 0x01, 0x81, 0x01, 0x02, 0x34] = .instr (.imm16 0x12 (.load .lbu ⟨0, .pt⟩ 1 2 0x34)) 7 ∧
    decode [0x20, 0x12, 0x01, 0x82, 0x01, 0x02, 0x34] = .instr (.imm16 0x12 (.load .lc ⟨0, .pt⟩ 1 2 0x34)) 7 ∧
    decode [0x20, 0x12, 0x01, 0x83, 0x01, 0x02, 0x34] = .instr (.imm16 0x12 (.load .lcu ⟨0, .pt⟩ 1 2 0x34)) 7 ∧
    decode [0x20, 0x12, 0x01, 0x84, 0x01, 0x02, 0x34] = .instr (.imm16 0x12 (.load .lh ⟨0, .pt⟩ 1 2 0x34)) 7 ∧
    decode [0x20, 0x12, 0x01, 0x85, 0x01, 0x02, 0x34] = .instr (.imm16 0x12 (.load .lhu ⟨0, .pt⟩ 1 2 0x34)) 7 ∧
    decode [0x20, 0x12, 0x01, 0x8E, 0x01, 0x02, 0x34] = .instr (.imm16 0x12 (.lws ⟨0, .pt⟩ 1 2 0x34)) 7 ∧
    decode [0x20, 0x12, 0x01, 0x90, 0x01, 0x02, 0x34] = .instr (.imm16 0x12 (.store .sb ⟨0, .pt⟩ 1 2 0x34)) 7 ∧
    decode [0x20, 0x12, 0x01, 0x91, 0x01, 0x02, 0x34] = .instr (.imm16 0x12 (.store .sc ⟨0, .pt⟩ 1 2 0x34)) 7 ∧
    decode [0x20, 0x12, 0x01, 0x92, 0x01, 0x02, 0x34] = .instr (.imm16 0x12 (.store .sh ⟨0, .pt⟩ 1 2 0x34)) 7 ∧
    decode [0x20, 0x12, 0x01, 0x9E, 0x01, 0x02, 0x34] = .instr (.imm16 0x12 (.sws ⟨0, .pt⟩ 1 2 0x34)) 7 ∧
    decode [0x20, 0x12, 0x01, 0xD0, 0x01, 0x02, 0x34] = .instr (.imm16 0x12 (.load .lvb ⟨0, .pt⟩ 1 2 0x34)) 7 ∧
    decode [0x20, 0x12, 0x01, 0xD1, 0x01, 0x02, 0x34] = .instr (.imm16 0x12 (.load .lvc ⟨0, .pt⟩ 1 2 0x34)) 7 ∧
    decode [0x20, 0x12, 0x01, 0xD2, 0x01, 0x02, 0x34] = .instr (.imm16 0x12 (.load .lvh ⟨0, .pt⟩ 1 2 0x34)) 7 ∧
    decode [0x20, 0x12, 0x01, 0xD3, 0x01, 0x02, 0x34] = .instr (.imm16 0x12 (.load .lvw ⟨0, .pt⟩ 1 2 0x34)) 7 := by
  decide

/-- Every condition and a register above 0 in the predicate byte (R110, R112). -/
theorem test_decode_predicates :
    decode [0x21, 0x03, 0x04] = .instr (.tst ⟨2, .pt⟩ 3 4) 3 ∧
    decode [0xF2, 0x03, 0x04] = .instr (.tst ⟨15, .peq⟩ 3 4) 3 ∧
    decode [0x53, 0x03, 0x04] = .instr (.tst ⟨5, .pne⟩ 3 4) 3 ∧
    decode [0x54, 0x03, 0x04] = .instr (.tst ⟨5, .ple⟩ 3 4) 3 ∧
    decode [0x55, 0x03, 0x04] = .instr (.tst ⟨5, .pgt⟩ 3 4) 3 ∧
    decode [0x56, 0x03, 0x04] = .instr (.tst ⟨5, .pge⟩ 3 4) 3 ∧
    decode [0x57, 0x03, 0x04] = .instr (.tst ⟨5, .plt⟩ 3 4) 3 ∧
    decode [0x58, 0x03, 0x04] = .instr (.tst ⟨5, .pleu⟩ 3 4) 3 ∧
    decode [0x59, 0x03, 0x04] = .instr (.tst ⟨5, .pgtu⟩ 3 4) 3 ∧
    decode [0x5A, 0x03, 0x04] = .instr (.tst ⟨5, .pgeu⟩ 3 4) 3 ∧
    decode [0x5B, 0x03, 0x04] = .instr (.tst ⟨5, .pltu⟩ 3 4) 3 ∧
    decode [0x5D, 0x03, 0x04] = .instr (.tst ⟨5, .psig⟩ 3 4) 3 := by
  decide

/-- Compares and BR (R123). -/
theorem test_decode_compares :
    decode [0x01, 0x05, 0x04] = .instr (.tst ⟨0, .pt⟩ 5 4) 3 ∧
    decode [0x01, 0x15, 0x04, 0x06] = .instr (.cmp ⟨0, .pt⟩ 5 4 6) 4 ∧
    decode [0x01, 0x25, 0x04, 0xFE] = .instr (.cmpi ⟨0, .pt⟩ 5 4 0xFE) 4 ∧
    decode [0x13, 0x3F, 0xFA] = .instr (.br ⟨1, .pne⟩ 0xFFA) 3 := by decide

/-- Register-register arithmetic and logic (R124). -/
theorem test_decode_register :
    decode [0x01, 0x40, 0x01, 0x02, 0x03] = .instr (.add ⟨0, .pt⟩ 1 2 3) 5 ∧
    decode [0x01, 0x41, 0x01, 0x02, 0x03] = .instr (.sub ⟨0, .pt⟩ 1 2 3) 5 ∧
    decode [0x01, 0x44, 0x01, 0x02, 0x03] = .instr (.addu ⟨0, .pt⟩ 1 2 3) 5 ∧
    decode [0x01, 0x45, 0x01, 0x02, 0x03] = .instr (.subu ⟨0, .pt⟩ 1 2 3) 5 ∧
    decode [0x01, 0x50, 0x01, 0x02, 0x03] = .instr (.and ⟨0, .pt⟩ 1 2 3) 5 ∧
    decode [0x01, 0x51, 0x01, 0x02, 0x03] = .instr (.or ⟨0, .pt⟩ 1 2 3) 5 ∧
    decode [0x01, 0x52, 0x01, 0x02, 0x03] = .instr (.eor ⟨0, .pt⟩ 1 2 3) 5 ∧
    decode [0x01, 0x56, 0x01, 0x02, 0x03] = .instr (.addu2 ⟨0, .pt⟩ 1 2 3) 5 ∧
    decode [0x01, 0x57, 0x01, 0x02, 0x03] = .instr (.addu4 ⟨0, .pt⟩ 1 2 3) 5 ∧
    decode [0x01, 0x64, 0x01, 0x02, 0x03] = .instr (.addu8 ⟨0, .pt⟩ 1 2 3) 5 ∧
    decode [0x01, 0x65, 0x01, 0x02, 0x03] = .instr (.addu16 ⟨0, .pt⟩ 1 2 3) 5 ∧
    decode [0x01, 0x72, 0x01, 0x02, 0x03, 0x04] = .instr (.mux ⟨0, .pt⟩ 1 2 3 4) 6 := by decide

/-- Register-immediate arithmetic and logic; LEA's words are those of ADDUI (R124, R146). -/
theorem test_decode_immediate :
    decode [0x01, 0x48, 0x01, 0x02, 0x80] = .instr (.addi ⟨0, .pt⟩ 1 2 0x80) 5 ∧
    decode [0x01, 0x49, 0x01, 0x02, 0x80] = .instr (.subi ⟨0, .pt⟩ 1 2 0x80) 5 ∧
    decode [0x01, 0x4C, 0x01, 0x02, 0x80] = .instr (.addui ⟨0, .pt⟩ 1 2 0x80) 5 ∧
    encode (.lea ⟨0, .pt⟩ 1 2 0x80) = [0x01, 0x4C, 0x01, 0x02, 0x80] ∧
    decode [0x01, 0x4D, 0x01, 0x02, 0x80] = .instr (.subui ⟨0, .pt⟩ 1 2 0x80) 5 ∧
    decode [0x01, 0x53, 0x01, 0x02, 0x80] = .instr (.andi ⟨0, .pt⟩ 1 2 0x80) 5 ∧
    decode [0x01, 0x54, 0x01, 0x02, 0x80] = .instr (.ori ⟨0, .pt⟩ 1 2 0x80) 5 ∧
    decode [0x01, 0x55, 0x01, 0x02, 0x80] = .instr (.eori ⟨0, .pt⟩ 1 2 0x80) 5 ∧
    decode [0x01, 0x6B, 0x01, 0x02, 0x80] = .instr (.addui2 ⟨0, .pt⟩ 1 2 0x80) 5 ∧
    decode [0x01, 0x6C, 0x01, 0x02, 0x80] = .instr (.addui4 ⟨0, .pt⟩ 1 2 0x80) 5 ∧
    decode [0x01, 0x6D, 0x01, 0x02, 0x80] = .instr (.addui8 ⟨0, .pt⟩ 1 2 0x80) 5 ∧
    decode [0x01, 0x6E, 0x01, 0x02, 0x80] = .instr (.addui16 ⟨0, .pt⟩ 1 2 0x80) 5 := by decide

/-- Moves, special registers, string stores (R124 to R126). -/
theorem test_decode_moves :
    decode [0x01, 0x6F, 0x01, 0x80] = .instr (.ldi ⟨0, .pt⟩ 1 0x80) 4 ∧
    decode [0x01, 0x9C, 0x01, 0x80] = .instr (.ldit8 ⟨0, .pt⟩ 1 0x80) 4 ∧
    decode [0x01, 0x9D, 0x1C, 0x80] = .instr (.ldis ⟨0, .pt⟩ 0x1C 0x80) 4 ∧
    decode [0x01, 0x70, 0x01, 0x02] = .instr (.neg ⟨0, .pt⟩ 1 2) 4 ∧
    decode [0x01, 0xA7, 0x01, 0x02] = .instr (.mov ⟨0, .pt⟩ 1 2) 4 ∧
    decode [0x01, 0xA8, 0x11, 0x02] = .instr (.mfspr ⟨0, .pt⟩ 0x11 2) 4 ∧
    decode [0x01, 0xA9, 0x02, 0x11] = .instr (.mtspr ⟨0, .pt⟩ 2 0x11) 4 ∧
    decode [0x01, 0xAB, 0x11, 0x12] = .instr (.movs ⟨0, .pt⟩ 0x11 0x12) 4 ∧
    decode [0x01, 0x98, 0x01, 0x02] = .instr (.stsb ⟨0, .pt⟩ 1 2) 4 ∧
    decode [0x01, 0x9A, 0x01, 0x02] = .instr (.stsw ⟨0, .pt⟩ 1 2) 4 := by decide

/-- Loads (R125, R126). -/
theorem test_decode_loads :
    decode [0x01, 0x80, 0x01, 0x02, 0xF8] = .instr (.lb ⟨0, .pt⟩ 1 2 0xF8) 5 ∧
    decode [0x01, 0x81, 0x01, 0x02, 0xF8] = .instr (.lbu ⟨0, .pt⟩ 1 2 0xF8) 5 ∧
    decode [0x01, 0x82, 0x01, 0x02, 0xF8] = .instr (.lc ⟨0, .pt⟩ 1 2 0xF8) 5 ∧
    decode [0x01, 0x83, 0x01, 0x02, 0xF8] = .instr (.lcu ⟨0, .pt⟩ 1 2 0xF8) 5 ∧
    decode [0x01, 0x84, 0x01, 0x02, 0xF8] = .instr (.lh ⟨0, .pt⟩ 1 2 0xF8) 5 ∧
    decode [0x01, 0x85, 0x01, 0x02, 0xF8] = .instr (.lhu ⟨0, .pt⟩ 1 2 0xF8) 5 ∧
    decode [0x01, 0x86, 0x01, 0x02, 0xF8] = .instr (.lw ⟨0, .pt⟩ 1 2 0xF8) 5 ∧
    decode [0x01, 0x8E, 0x01, 0x11, 0xF8] = .instr (.lws ⟨0, .pt⟩ 1 0x11 0xF8) 5 ∧
    decode [0x01, 0xD0, 0x01, 0x02, 0xF8] = .instr (.lvb ⟨0, .pt⟩ 1 2 0xF8) 5 ∧
    decode [0x01, 0xD1, 0x01, 0x02, 0xF8] = .instr (.lvc ⟨0, .pt⟩ 1 2 0xF8) 5 ∧
    decode [0x01, 0xD2, 0x01, 0x02, 0xF8] = .instr (.lvh ⟨0, .pt⟩ 1 2 0xF8) 5 ∧
    decode [0x01, 0xD3, 0x01, 0x02, 0xF8] = .instr (.lvw ⟨0, .pt⟩ 1 2 0xF8) 5 ∧
    decode [0x01, 0xB0, 0x01, 0x02, 0x03] = .instr (.lbx ⟨0, .pt⟩ 1 2 3) 5 ∧
    decode [0x01, 0xB1, 0x01, 0x02, 0x03] = .instr (.lbux ⟨0, .pt⟩ 1 2 3) 5 ∧
    decode [0x01, 0xB2, 0x01, 0x02, 0x03] = .instr (.lcx ⟨0, .pt⟩ 1 2 3) 5 ∧
    decode [0x01, 0xB3, 0x01, 0x02, 0x03] = .instr (.lcux ⟨0, .pt⟩ 1 2 3) 5 ∧
    decode [0x01, 0xB4, 0x01, 0x02, 0x03] = .instr (.lhx ⟨0, .pt⟩ 1 2 3) 5 ∧
    decode [0x01, 0xB5, 0x01, 0x02, 0x03] = .instr (.lhux ⟨0, .pt⟩ 1 2 3) 5 ∧
    decode [0x01, 0xB6, 0x01, 0x02, 0x03] = .instr (.lwx ⟨0, .pt⟩ 1 2 3) 5 := by decide

/-- Stores and CAS (R125, R126). -/
theorem test_decode_stores :
    decode [0x01, 0x90, 0x01, 0x02, 0xF8] = .instr (.sb ⟨0, .pt⟩ 1 2 0xF8) 5 ∧
    decode [0x01, 0x91, 0x01, 0x02, 0xF8] = .instr (.sc ⟨0, .pt⟩ 1 2 0xF8) 5 ∧
    decode [0x01, 0x92, 0x01, 0x02, 0xF8] = .instr (.sh ⟨0, .pt⟩ 1 2 0xF8) 5 ∧
    decode [0x01, 0x93, 0x01, 0x02, 0xF8] = .instr (.sw ⟨0, .pt⟩ 1 2 0xF8) 5 ∧
    decode [0x01, 0x96, 0x01, 0x7F, 0xF8] = .instr (.sti ⟨0, .pt⟩ 1 0x7F 0xF8) 5 ∧
    decode [0x01, 0x9E, 0x01, 0x11, 0xF8] = .instr (.sws ⟨0, .pt⟩ 1 0x11 0xF8) 5 ∧
    decode [0x01, 0x97, 0x01, 0x02, 0x03, 0x04, 0x08] = .instr (.cas ⟨0, .pt⟩ 1 2 3 4 8) 7 ∧
    decode [0x01, 0xC0, 0x01, 0x02, 0x03] = .instr (.sbx ⟨0, .pt⟩ 1 2 3) 5 ∧
    decode [0x01, 0xC1, 0x01, 0x02, 0x03] = .instr (.scx ⟨0, .pt⟩ 1 2 3) 5 ∧
    decode [0x01, 0xC2, 0x01, 0x02, 0x03] = .instr (.shx ⟨0, .pt⟩ 1 2 3) 5 ∧
    decode [0x01, 0xC3, 0x01, 0x02, 0x03] = .instr (.swx ⟨0, .pt⟩ 1 2 3) 5 := by decide

/-- Control transfer: the low nibble of byte 2 is the link register, the high one the base (R115, R126). -/
theorem test_decode_control :
    decode [0x01, 0xA2, 0x21, 0x12, 0x34, 0x56] = .instr (.jsr ⟨0, .pt⟩ 1 2 0x563412) 6 ∧
    decode [0x01, 0xA2, 0xF1, 0x12, 0x34, 0x56] = .instr (.bsr ⟨0, .pt⟩ 1 0x563412) 6 ∧
    decode [0x01, 0xA2, 0x20, 0x12, 0x34, 0x56] = .instr (.jmp ⟨0, .pt⟩ 2 0x563412) 6 ∧
    decode [0x01, 0xA3, 0x18] = .instr (.rts ⟨0, .pt⟩ 8 1) 3 ∧
    decode [0x01, 0xA4, 0xFB] = .instr (.loop ⟨0, .pt⟩ 0xFB) 3 ∧
    decode [0x01, 0xA5, 0xCD, 0x04] = .instr (.sys ⟨0, .pt⟩ 4) 4 ∧
    decode [0x01, 0xA6, 0xCE, 0xC1] = .instr (.int ⟨0, .pt⟩ 0xC1) 4 := by decide

/-- Bitfield: mb in bits 5 to 0 of the last two bytes, me above it, the function on top (R115, R197). -/
theorem test_decode_bitfield :
    decode [0x01, 0xAA, 0x01, 0x02, 0xC8, 0x03] = .instr (.bfins ⟨0, .pt⟩ 1 2 8 15) 6 ∧
    decode [0x01, 0xAA, 0x01, 0x02, 0xC8, 0x13] = .instr (.bfset ⟨0, .pt⟩ 1 2 8 15) 6 ∧
    decode [0x01, 0xAA, 0x01, 0x02, 0xC8, 0x23] = .instr (.bfclr ⟨0, .pt⟩ 1 2 8 15) 6 ∧
    decode [0x01, 0xAA, 0x01, 0x02, 0xC8, 0x33] = .instr (.bfchg ⟨0, .pt⟩ 1 2 8 15) 6 ∧
    decode [0x01, 0xAA, 0x01, 0x02, 0xC8, 0x43] = .instr (.bfextu ⟨0, .pt⟩ 1 2 8 15) 6 ∧
    decode [0x01, 0xAA, 0x01, 0x02, 0xC8, 0x53] = .instr (.bfext ⟨0, .pt⟩ 1 2 8 15) 6 := by decide

/-- The TLB instruction: the command in the low nibble of byte 2, Tn above it (R350). -/
theorem test_decode_tlb :
    decode [0x01, 0xF0, 0x00, 0x05] = .instr (.tlbnop ⟨0, .pt⟩ 0 5) 4 ∧
    decode [0x01, 0xF0, 0x01, 0x05] = .instr (.tlbpb ⟨0, .pt⟩ 0 5) 4 ∧
    decode [0x01, 0xF0, 0x02, 0x05] = .instr (.tlbrd ⟨0, .pt⟩ 0 5) 4 ∧
    decode [0x01, 0xF0, 0x03, 0x05] = .instr (.tlbwr ⟨0, .pt⟩ 0 5) 4 ∧
    decode [0x01, 0xF0, 0x04, 0x05] = .instr (.tlbwi ⟨0, .pt⟩ 0 5) 4 ∧
    decode [0x01, 0xF0, 0x05, 0x05] = .instr (.tlben ⟨0, .pt⟩ 0 5) 4 ∧
    decode [0x01, 0xF0, 0x06, 0x05] = .instr (.tlbdis ⟨0, .pt⟩ 0 5) 4 ∧
    decode [0x01, 0xF0, 0x87, 0x05] = .instr (.tlbrdreg ⟨0, .pt⟩ 8 5) 4 ∧
    decode [0x01, 0xF0, 0x78, 0x03] = .instr (.tlbwrreg ⟨0, .pt⟩ 7 3) 4 := by decide

/-- System and BCD (R127). -/
theorem test_decode_system :
    decode [0x01, 0xF3] = .instr (.rte ⟨0, .pt⟩) 2 ∧ decode [0x01, 0xF4] = .instr (.rti ⟨0, .pt⟩) 2 ∧
    decode [0x01, 0xF8] = .instr (.memsb ⟨0, .pt⟩) 2 ∧ decode [0x01, 0xF9] = .instr (.memdb ⟨0, .pt⟩) 2 ∧
    decode [0x01, 0xFA] = .instr (.cli ⟨0, .pt⟩) 2 ∧ decode [0x01, 0xFB] = .instr (.sei ⟨0, .pt⟩) 2 ∧
    decode [0x01, 0xF5, 0x01, 0x02, 0x03, 0x00] = .instr (.bcdadd ⟨0, .pt⟩ 1 2 3) 6 ∧
    decode [0x01, 0xF5, 0x01, 0x02, 0x03, 0x01] = .instr (.bcdsub ⟨0, .pt⟩ 1 2 3) 6 ∧
    decode [0x01, 0xF5, 0x01, 0x02, 0x03, 0x02] = .instr (.bcdmul ⟨0, .pt⟩ 1 2 3) 6 := by decide

/-- A word of the opcode table as the host numbers its bits: `ADD` with byte 0 in bits 7 to 0. -/
theorem test_decodeTableWord : decodeTableWord 40 0x0302014001 = some (.add ⟨0, .pt⟩ 1 2 3) := by decide

/-- `withFetchWord` puts a word where the next step finds it: the `ADD` above as the first instruction after reset. -/
theorem test_withFetchWord :
    (match step (State.reset.withFetchWord 40 0x0302014001) with
      | .next t => decide (t.pc = 0xFFFFFFFFFFFFFFF5 ∧ t.getX 3 = 0)
      | _ => false) = true := by decide

/-! ## Single steps: the results are those of 95_test_vectors.md, or follow from the rules named -/

/-! ### One-byte instructions (43_branch.md R239, R241, R242) -/

theorem test_brk : gives ({ base with sr := 0x2000 } |>.setBr 12 0x8000)
    [0x00] (fun t => t.pc = 0x8000 ∧ t.getBr 13 = 0x1001 ∧ t.sr = 0x2000A000) = true := by decide

theorem test_nop : gives base [0x10] (fun t => t.pc = 0x1001) = true := by decide

theorem test_rtsShort : gives (base |>.setBr 1 0x1006) [0x11] (fun t => t.pc = 0x1006) = true := by decide

/-! ### Prefixes (30_encoding.md R116 to R118, R122) -/

theorem test_imm16_addi_neg : gives base
    [0x20, 0x80, 0x01, 0x48, 0x01, 0x02, 0x00]
    (fun t => t.getX 2 = 0xFFFFFFFFFFFF8000 ∧ t.pc = 0x1007) = true := by decide

theorem test_imm16_lw : gives (loadable |>.setX 1 0x1000)
    [0x20, 0x10, 0x01, 0x86, 0x01, 0x02, 0x08]
    (fun t => t.getX 2 = 0x123456789ABCDEF0 ∧ t.pc = 0x1007) = true := by decide

theorem test_imm24 : gives base
    [0x30, 0x00, 0x80, 0x01, 0x6F, 0x01, 0x00]
    (fun t => t.getX 1 = 0xFFFFFFFFFF800000 ∧ t.pc = 0x1007) = true := by decide

theorem test_imm24_ldis : gives base
    [0x30, 0x00, 0xFF, 0x01, 0x9D, 0x1C, 0x00]
    (fun t => t.getBr 12 = 0xFFFFFFFFFFFF0000 ∧ t.pc = 0x1007) = true := by decide

theorem test_imm32 : gives base
    [0x40, 0x56, 0x34, 0x12, 0x01, 0x6F, 0x01, 0x78]
    (fun t => t.getX 1 = 0x12345678 ∧ t.pc = 0x1008) = true := by decide

theorem test_imm32_jsr2 : gives base
    [0x40, 0x56, 0x34, 0x12, 0x01, 0xA2, 0x01, 0x78, 0xFF, 0xFF]
    (fun t => t.pc = 0x12345678 ∧ t.getBr 1 = 0x100A) = true := by decide

theorem test_imm40 : gives base
    [0x50, 0xDE, 0xBC, 0x9A, 0x78, 0x01, 0x6F, 0x01, 0xF0]
    (fun t => t.getX 1 = 0x789ABCDEF0 ∧ t.pc = 0x1009) = true := by decide

theorem test_imm48 : gives base
    [0x60, 0xBC, 0x9A, 0x78, 0x56, 0x34, 0x01, 0x6F, 0x01, 0xDE]
    (fun t => t.getX 1 = 0x3456789ABCDE ∧ t.pc = 0x100A) = true := by decide

theorem test_imm56 : gives base
    [0x70, 0xBC, 0x9A, 0x78, 0x56, 0x34, 0x92, 0x01, 0x6F, 0x01, 0xDE]
    (fun t => t.getX 1 = 0xFF923456789ABCDE ∧ t.pc = 0x100B) = true := by decide

theorem test_imm64 : gives base
    [0x80, 0xDE, 0xBC, 0x9A, 0x78, 0x56, 0x34, 0x12, 0x01, 0x6F, 0x01, 0xF0]
    (fun t => t.getX 1 = 0x123456789ABCDEF0 ∧ t.pc = 0x100C) = true := by decide

/-! ### Compares and BR (42_compare.md, 43_branch.md R230) -/

theorem test_tst : gives (base |>.setX 4 0xFFFFFFFFFFFFFFFF)
    [0x01, 0x03, 0x04] (fun t => t.getP 3 = 0x2 ∧ t.pc = 0x1003) = true := by decide

theorem test_tst4 : gives (base |>.setX 4 0x8000000000000000)
    [0x01, 0x03, 0x04] (fun t => t.getP 3 = 0x2) = true := by decide

theorem test_cmp2 : gives (base |>.setX 1 0xFFFFFFFFFFFFFFFF |>.setX 2 0x1)
    [0x01, 0x11, 0x01, 0x02] (fun t => t.getP 1 = 0x2) = true := by decide

theorem test_cmp3 : gives (base |>.setX 1 0x1 |>.setX 2 0xFFFFFFFFFFFFFFFF)
    [0x01, 0x11, 0x01, 0x02] (fun t => t.getP 1 = 0x4) = true := by decide

theorem test_cmpi : gives (base |>.setX 1 0xA)
    [0x01, 0x22, 0x01, 0x0A] (fun t => t.getP 2 = 0x1 ∧ t.pc = 0x1004) = true := by decide

theorem test_cmpi2 : gives base [0x01, 0x22, 0x01, 0xFF] (fun t => t.getP 2 = 0x4) = true := by decide

theorem test_br_t : gives base [0x13, 0x3F, 0xFA] (fun t => t.pc = 0xFFA) = true := by decide

theorem test_br_nt : gives (base |>.setP 1 0x1) [0x13, 0x3F, 0xFA] (fun t => t.pc = 0x1003) = true := by decide

/-! ### Arithmetic, logic, moves, special registers, string stores -/

theorem test_add_r0 : gives (base |>.setX 1 0x5 |>.setX 2 0x7)
    [0x01, 0x40, 0x01, 0x02, 0x00] (fun t => t.getX 0 = 0x0 ∧ t.pc = 0x1005) = true := by decide

theorem test_add_ov : gives (handled |>.setX 1 0x7FFFFFFFFFFFFFFF |>.setX 2 0x1 |>.setX 3 0x55)
    [0x01, 0x40, 0x01, 0x02, 0x03]
    (fun t => t.getX 3 = 0x55 ∧ t.getBr 13 = 0x1000 ∧ t.sr = 0xA000A000 ∧ t.pc = 0xFFFFFFFFFFFF0070) = true := by
      decide

theorem test_sub_borrow : gives (base |>.setX 2 0x1)
    [0x01, 0x41, 0x01, 0x02, 0x03] (fun t => t.getX 3 = 0xFFFFFFFFFFFFFFFF ∧ t.pc = 0x1005) = true := by decide

theorem test_sub_ov2 : gives (handled |>.setX 2 0x8000000000000000)
    [0x01, 0x41, 0x01, 0x02, 0x03]
    (fun t => t.getX 3 = 0x0 ∧ t.getBr 13 = 0x1000 ∧ t.sr = 0xA000A000 ∧ t.pc = 0xFFFFFFFFFFFF0070) = true := by
      decide

theorem test_addu_wrap : gives (base |>.setX 1 0xFFFFFFFFFFFFFFFF |>.setX 2 0x1)
    [0x01, 0x44, 0x01, 0x02, 0x03] (fun t => t.getX 3 = 0x0 ∧ t.pc = 0x1005) = true := by decide

theorem test_subu : gives (base |>.setX 2 0x1)
    [0x01, 0x45, 0x01, 0x02, 0x03] (fun t => t.getX 3 = 0xFFFFFFFFFFFFFFFF ∧ t.pc = 0x1005) = true := by decide

theorem test_and : gives (base |>.setX 1 0xFF00 |>.setX 2 0xFF0)
    [0x01, 0x50, 0x01, 0x02, 0x03] (fun t => t.getX 3 = 0xF00 ∧ t.pc = 0x1005) = true := by decide

theorem test_or : gives (base |>.setX 1 0xFF00 |>.setX 2 0xFF0)
    [0x01, 0x51, 0x01, 0x02, 0x03] (fun t => t.getX 3 = 0xFFF0 ∧ t.pc = 0x1005) = true := by decide

theorem test_eor : gives (base |>.setX 1 0xFF00 |>.setX 2 0xFF0)
    [0x01, 0x52, 0x01, 0x02, 0x03] (fun t => t.getX 3 = 0xF0F0 ∧ t.pc = 0x1005) = true := by decide

theorem test_addu2_lost : gives (base |>.setX 1 0x8000000000000001)
    [0x01, 0x56, 0x01, 0x02, 0x03] (fun t => t.getX 3 = 0x2 ∧ t.pc = 0x1005) = true := by decide

theorem test_addu4 : gives (base |>.setX 1 0x3 |>.setX 2 0x64)
    [0x01, 0x57, 0x01, 0x02, 0x03] (fun t => t.getX 3 = 0x70 ∧ t.pc = 0x1005) = true := by decide

theorem test_addu8 : gives (base |>.setX 1 0x3 |>.setX 2 0x1000)
    [0x01, 0x64, 0x01, 0x02, 0x03] (fun t => t.getX 3 = 0x1018 ∧ t.pc = 0x1005) = true := by decide

theorem test_addu16_lost : gives (base |>.setX 1 0x1000000000000000 |>.setX 2 0x7)
    [0x01, 0x65, 0x01, 0x02, 0x03] (fun t => t.getX 3 = 0x7 ∧ t.pc = 0x1005) = true := by decide

theorem test_addi : gives (base |>.setX 1 0xA)
    [0x01, 0x48, 0x01, 0x02, 0xFF] (fun t => t.getX 2 = 0x9 ∧ t.pc = 0x1005) = true := by decide

theorem test_addi_ov : gives (handled |>.setX 1 0x7FFFFFFFFFFFFFFF)
    [0x01, 0x48, 0x01, 0x02, 0x01]
    (fun t => t.getX 2 = 0x0 ∧ t.getBr 13 = 0x1000 ∧ t.sr = 0xA000A000 ∧ t.pc = 0xFFFFFFFFFFFF0070) = true := by
      decide

theorem test_subi_neg : gives (base |>.setX 1 0x8000000000000000)
    [0x01, 0x49, 0x01, 0x02, 0xFF] (fun t => t.getX 2 = 0x8000000000000001 ∧ t.pc = 0x1005) = true := by decide

theorem test_subi_ov : gives (handled |>.setX 1 0x7FFFFFFFFFFFFFFF)
    [0x01, 0x49, 0x01, 0x02, 0xFF]
    (fun t => t.getX 2 = 0x0 ∧ t.getBr 13 = 0x1000 ∧ t.sr = 0xA000A000 ∧ t.pc = 0xFFFFFFFFFFFF0070) = true := by
      decide

theorem test_addui : gives (base |>.setX 1 0x1000)
    [0x01, 0x4C, 0x01, 0x02, 0x08] (fun t => t.getX 2 = 0x1008 ∧ t.pc = 0x1005) = true := by decide

theorem test_subui_neg : gives (base |>.setX 1 0x5)
    [0x01, 0x4D, 0x01, 0x02, 0xFF] (fun t => t.getX 2 = 0x6 ∧ t.pc = 0x1005) = true := by decide

theorem test_andi_neg : gives (base |>.setX 1 0x1234)
    [0x01, 0x53, 0x01, 0x02, 0xFF] (fun t => t.getX 2 = 0x1234 ∧ t.pc = 0x1005) = true := by decide

theorem test_ori_neg : gives (base |>.setX 1 0x1)
    [0x01, 0x54, 0x01, 0x02, 0x80] (fun t => t.getX 2 = 0xFFFFFFFFFFFFFF81 ∧ t.pc = 0x1005) = true := by decide

theorem test_eori2 : gives (base |>.setX 1 0xFF00FF00FF00FF)
    [0x01, 0x55, 0x01, 0x02, 0xFF] (fun t => t.getX 2 = 0xFF00FF00FF00FF00 ∧ t.pc = 0x1005) = true := by decide

theorem test_addui2 : gives (base |>.setX 1 0x3)
    [0x01, 0x6B, 0x01, 0x02, 0x01] (fun t => t.getX 2 = 0x7 ∧ t.pc = 0x1005) = true := by decide

theorem test_addui4 : gives (base |>.setX 1 0x3)
    [0x01, 0x6C, 0x01, 0x02, 0x02] (fun t => t.getX 2 = 0xE ∧ t.pc = 0x1005) = true := by decide

theorem test_addui8 : gives (base |>.setX 1 0x2)
    [0x01, 0x6D, 0x01, 0x02, 0x04] (fun t => t.getX 2 = 0x14 ∧ t.pc = 0x1005) = true := by decide

theorem test_addui16_neg : gives (base |>.setX 1 0x1)
    [0x01, 0x6E, 0x01, 0x02, 0xF0] (fun t => t.getX 2 = 0x0 ∧ t.pc = 0x1005) = true := by decide

theorem test_lea : gives (base |>.setX 1 0x1000)
    [0x01, 0x4C, 0x01, 0x02, 0xFC] (fun t => t.getX 2 = 0xFFC ∧ t.pc = 0x1005) = true := by decide

theorem test_lea_row : exec (.lea ⟨0, .pt⟩ 1 2 0xFC) (base.setX 1 0x1000) =
    .next { (base.setX 1 0x1000).setX 2 0xFFC with pc := 0x1005 } := by rfl

theorem test_ldi_neg : gives base
    [0x01, 0x6F, 0x01, 0x80] (fun t => t.getX 1 = 0xFFFFFFFFFFFFFF80) = true := by decide

theorem test_ldit8 : gives (base |>.setX 1 0x1000)
    [0x01, 0x9C, 0x01, 0xD0] (fun t => t.getX 1 = 0xD000000000001000 ∧ t.pc = 0x1004) = true := by decide

theorem test_ldis : gives base [0x01, 0x9D, 0x03, 0x09] (fun t => t.lc = 0x9 ∧ t.pc = 0x1004) = true := by decide

theorem test_ldis_pregs : gives (base |>.setP 2 0x7)
    [0x01, 0x9D, 0x04, 0x11]
    (fun t => t.getP 0 = 0x1 ∧ t.getP 1 = 0x1 ∧ t.getP 2 = 0x0 ∧ t.getP 15 = 0x0) = true := by decide

theorem test_neg : gives (base |>.setX 1 0x1)
    [0x01, 0x70, 0x01, 0x02] (fun t => t.getX 2 = 0xFFFFFFFFFFFFFFFF ∧ t.pc = 0x1004) = true := by decide

theorem test_neg_min : gives (base |>.setX 1 0x8000000000000000)
    [0x01, 0x70, 0x01, 0x02] (fun t => t.getX 2 = 0x8000000000000000) = true := by decide

theorem test_mov_r0 : gives (base |>.setX 2 0x5)
    [0x01, 0xA7, 0x00, 0x02] (fun t => t.getX 2 = 0x0) = true := by decide

theorem test_mfspr_pregs : gives (base |>.setP 0 0x1 |>.setP 1 0x6 |>.setP 15 0x2)
    [0x01, 0xA8, 0x04, 0x05] (fun t => t.getX 5 = 0x2000000000000061) = true := by decide

theorem test_mfspr_pc : gives ({ base with pc := 0x1230 })
    [0x01, 0xA8, 0x1F, 0x05] (fun t => t.getX 5 = 0x1230 ∧ t.pc = 0x1234) = true := by decide

theorem test_mtspr_pregs : gives (base |>.setX 2 0xFEDCBA9876543210)
    [0x01, 0xA9, 0x02, 0x04]
    (fun t => t.getP 0 = 0x0 ∧ t.getP 1 = 0x1 ∧ t.getP 8 = 0x8 ∧ t.getP 15 = 0xF) = true := by decide

theorem test_mtspr_br15 : gives (base |>.setX 2 0x55)
    [0x01, 0xA9, 0x02, 0x1F] (fun t => t.pc = 0x1004) = true := by decide

theorem test_movs_pc : gives ({ base with pc := 0x1230 })
    [0x01, 0xAB, 0x1F, 0x12] (fun t => t.getBr 2 = 0x1230) = true := by decide

theorem test_stsb : gives ({ storable with lc := 0x4 } |>.setX 1 0x3001 |>.setX 2 0x120)
    [0x01, 0x98, 0x01, 0x02]
    (fun t => peek t 0x3000 6 = [0xAA, 0x20, 0x20, 0x20, 0x20, 0xAA] ∧ t.lc = 0x0 ∧ t.getX 1 = 0x3001 ∧ t.pc = 0x1004)
      = true := by decide

theorem test_stsb0 : gives ({ storable with lc := 0x0 } |>.setX 1 0x3001 |>.setX 2 0x120)
    [0x01, 0x98, 0x01, 0x02]
    (fun t => peek t 0x3000 3 = [0xAA, 0xAA, 0xAA] ∧ t.lc = 0x0 ∧ t.pc = 0x1004) = true := by decide

theorem test_stsw2 : gives ({ storable with lc := 0x1 } |>.setX 1 0x3008 |>.setX 2 0x1122334455667788)
    [0x01, 0x9A, 0x01, 0x02]
    (fun t => peek t 0x3007 10 = [0xAA, 0x88, 0x77, 0x66, 0x55, 0x44, 0x33, 0x22, 0x11, 0xAA] ∧ t.lc = 0x0) = true :=
      by decide

theorem test_mux : gives (base |>.setX 1 0xFF00 |>.setX 2 0x5555 |>.setX 3 0xAAAA)
    [0x01, 0x72, 0x01, 0x02, 0x03, 0x04] (fun t => t.getX 4 = 0x55AA ∧ t.pc = 0x1006) = true := by decide

/-! ### Loads and stores (44_load_store.md) -/

theorem test_lb : gives (loadable |>.setX 1 0x2000)
    [0x01, 0x80, 0x01, 0x02, 0x04] (fun t => t.getX 2 = 0xFFFFFFFFFFFFFFFE ∧ t.pc = 0x1005) = true := by decide

theorem test_lb_false : gives (loadable |>.setX 1 0x2000 |>.setX 2 0x55)
    [0x02, 0x80, 0x01, 0x02, 0x04] (fun t => t.getX 2 = 0x55 ∧ t.pc = 0x1005) = true := by decide

theorem test_lbu : gives (loadable |>.setX 1 0x2000)
    [0x01, 0x81, 0x01, 0x02, 0x04] (fun t => t.getX 2 = 0xFE) = true := by decide

theorem test_lc : gives (loadable |>.setX 1 0x2000)
    [0x01, 0x82, 0x01, 0x02, 0x00] (fun t => t.getX 2 = 0xFFFFFFFFFFFF9234) = true := by decide

theorem test_lcu : gives (loadable |>.setX 1 0x2000)
    [0x01, 0x83, 0x01, 0x02, 0x00] (fun t => t.getX 2 = 0x9234) = true := by decide

theorem test_lh : gives (loadable |>.setX 1 0x2000)
    [0x01, 0x84, 0x01, 0x02, 0x08] (fun t => t.getX 2 = 0xFFFFFFFF9ABCDEF0) = true := by decide

theorem test_lhu : gives (loadable |>.setX 1 0x2000)
    [0x01, 0x85, 0x01, 0x02, 0x08] (fun t => t.getX 2 = 0x9ABCDEF0) = true := by decide

theorem test_lw : gives (loadable |>.setX 1 0x2010)
    [0x01, 0x86, 0x01, 0x02, 0xF8] (fun t => t.getX 2 = 0x123456789ABCDEF0) = true := by decide

theorem test_lw_mis : faults (loadable |>.setX 1 0x2000)
    [0x01, 0x86, 0x01, 0x02, 0x01] .misaligned = true := by decide

theorem test_lws_pregs : gives (loadable |>.setX 1 0x2000)
    [0x01, 0x8E, 0x01, 0x04, 0x08]
    (fun t => t.getP 0 = 0 ∧ t.getP 1 = 15 ∧ t.getP 2 = 14 ∧ t.getP 15 = 1) = true := by decide

theorem test_sb : gives (storable |>.setX 1 0x3000 |>.setX 2 0x1234)
    [0x01, 0x90, 0x01, 0x02, 0x04] (fun t => peek t 0x3003 3 = [0xAA, 0x34, 0xAA] ∧ t.pc = 0x1005) = true := by decide

theorem test_sc : gives (storable |>.setX 1 0x3000 |>.setX 2 0x1234)
    [0x01, 0x91, 0x01, 0x02, 0x02] (fun t => peek t 0x3001 4 = [0xAA, 0x34, 0x12, 0xAA]) = true := by decide

theorem test_sh : gives (storable |>.setX 1 0x3000 |>.setX 2 0x123456789)
    [0x01, 0x92, 0x01, 0x02, 0x04]
    (fun t => peek t 0x3003 6 = [0xAA, 0x89, 0x67, 0x45, 0x23, 0xAA]) = true := by decide

theorem test_sw : gives (storable |>.setX 1 0x3010 |>.setX 2 0x123456789ABCDEF0)
    [0x01, 0x93, 0x01, 0x02, 0xF8]
    (fun t => peek t 0x3007 10 = [0xAA, 0xF0, 0xDE, 0xBC, 0x9A, 0x78, 0x56, 0x34, 0x12, 0xAA]) = true := by decide

theorem test_sws_pc : gives (storable |>.setX 1 0x3000 |>.setX 2 0x1234)
    [0x01, 0x9E, 0x01, 0x1F, 0x00]
    (fun t => peek t 0x3000 9 = [0x00, 0x10, 0x00, 0x00, 0x00, 0x00, 0x00, 0x00, 0xAA]) = true := by decide

theorem test_sti : gives (storable |>.setX 1 0x3000 |>.setX 2 0x1234)
    [0x01, 0x96, 0x01, 0x05, 0x10]
    (fun t => peek t 0x300F 10 = [0xAA, 0x05, 0x00, 0x00, 0x00, 0x00, 0x00, 0x00, 0x00, 0xAA] ∧ t.pc = 0x1005) = true
      := by decide

theorem test_cas : gives (base |>.setX 1 0x5000 |>.setX 3 0x1)
    [0x01, 0x97, 0x01, 0x00, 0x03, 0x04, 0x00]
    (fun t => t.getX 4 = 0x0 ∧ peek t 0x5000 8 = [0x01, 0x00, 0x00, 0x00, 0x00, 0x00, 0x00, 0x00] ∧ t.pc = 0x1007) =
      true := by decide

theorem test_cas_no : gives (put (base |>.setX 1 0x5000 |>.setX 3 0x1) 0x5000 [0x01])
    [0x01, 0x97, 0x01, 0x00, 0x03, 0x04, 0x00]
    (fun t => t.getX 4 = 0x1 ∧ peek t 0x5000 1 = [0x01]) = true := by decide

theorem test_lvb : gives (loadable |>.setX 1 0x2000)
    [0x01, 0xD0, 0x01, 0x02, 0x04] (fun t => t.getX 2 = 0xFFFFFFFFFFFFFFFE) = true := by decide

theorem test_lvc : gives (loadable |>.setX 1 0x2000)
    [0x01, 0xD1, 0x01, 0x02, 0x00] (fun t => t.getX 2 = 0xFFFFFFFFFFFF9234) = true := by decide

theorem test_lvh : gives (loadable |>.setX 1 0x2000)
    [0x01, 0xD2, 0x01, 0x02, 0x08] (fun t => t.getX 2 = 0xFFFFFFFF9ABCDEF0) = true := by decide

theorem test_lvw : gives (loadable |>.setX 1 0x2000)
    [0x01, 0xD3, 0x01, 0x02, 0x08] (fun t => t.getX 2 = 0x123456789ABCDEF0) = true := by decide

theorem test_lbx : gives (loadable |>.setX 1 0x2000 |>.setX 2 0x4)
    [0x01, 0xB0, 0x01, 0x02, 0x03] (fun t => t.getX 3 = 0xFFFFFFFFFFFFFFFE ∧ t.pc = 0x1005) = true := by decide

theorem test_lbux : gives (loadable |>.setX 1 0x2000 |>.setX 2 0x4)
    [0x01, 0xB1, 0x01, 0x02, 0x03] (fun t => t.getX 3 = 0xFE) = true := by decide

theorem test_lcx : gives (loadable |>.setX 1 0x2000)
    [0x01, 0xB2, 0x01, 0x02, 0x03] (fun t => t.getX 3 = 0xFFFFFFFFFFFF9234) = true := by decide

theorem test_lcux : gives (loadable |>.setX 1 0x2000)
    [0x01, 0xB3, 0x01, 0x02, 0x03] (fun t => t.getX 3 = 0x9234) = true := by decide

theorem test_lhx : gives (loadable |>.setX 1 0x2000 |>.setX 2 0x8)
    [0x01, 0xB4, 0x01, 0x02, 0x03] (fun t => t.getX 3 = 0xFFFFFFFF9ABCDEF0) = true := by decide

theorem test_lhux : gives (loadable |>.setX 1 0x2000 |>.setX 2 0x8)
    [0x01, 0xB5, 0x01, 0x02, 0x03] (fun t => t.getX 3 = 0x9ABCDEF0) = true := by decide

theorem test_lwx_same : gives (loadable |>.setX 1 0x2000 |>.setX 2 0x8)
    [0x01, 0xB6, 0x01, 0x02, 0x01] (fun t => t.getX 1 = 0x123456789ABCDEF0) = true := by decide

theorem test_sbx : gives (storable |>.setX 1 0x3000 |>.setX 2 0x4 |>.setX 3 0xAB)
    [0x01, 0xC0, 0x01, 0x02, 0x03] (fun t => peek t 0x3003 3 = [0xAA, 0xAB, 0xAA]) = true := by decide

theorem test_scx : gives (storable |>.setX 1 0x3000 |>.setX 2 0x2 |>.setX 3 0xCAFEBEEF)
    [0x01, 0xC1, 0x01, 0x02, 0x03] (fun t => peek t 0x3001 4 = [0xAA, 0xEF, 0xBE, 0xAA]) = true := by decide

theorem test_shx : gives (storable |>.setX 1 0x3000 |>.setX 2 0x4 |>.setX 3 0xCAFEBEEF)
    [0x01, 0xC2, 0x01, 0x02, 0x03] (fun t => peek t 0x3004 5 = [0xEF, 0xBE, 0xFE, 0xCA, 0xAA]) = true := by decide

theorem test_swx : gives (storable |>.setX 1 0x3000 |>.setX 2 0x8 |>.setX 3 0x102030405060708)
    [0x01, 0xC3, 0x01, 0x02, 0x03]
    (fun t => peek t 0x3008 9 = [0x08, 0x07, 0x06, 0x05, 0x04, 0x03, 0x02, 0x01, 0xAA]) = true := by decide

/-! ### Control transfer and traps (43_branch.md, 45_system.md) -/

theorem test_jsr_zx : gives (base |>.setBr 2 0x10)
    [0x01, 0xA2, 0x21, 0xFF, 0xFF, 0xFF] (fun t => t.pc = 0x100000F ∧ t.getBr 1 = 0x1006) = true := by decide

theorem test_jsr_self : gives (base |>.setBr 1 0x5000)
    [0x01, 0xA2, 0x11, 0x00, 0x00, 0x00] (fun t => t.pc = 0x5000 ∧ t.getBr 1 = 0x1006) = true := by decide

theorem test_bsr_neg : gives ({ base with pc := 0x1006 })
    [0x01, 0xA2, 0xF1, 0xFA, 0xFF, 0xFF] (fun t => t.pc = 0x1000 ∧ t.getBr 1 = 0x100C) = true := by decide

theorem test_jmp2 : gives (base |>.setBr 1 0x3000)
    [0x01, 0xA2, 0x10, 0x00, 0x00, 0x00] (fun t => t.pc = 0x3000) = true := by decide

theorem test_rts_pc : gives base [0x01, 0xA3, 0xF3] (fun t => t.pc = 0x1003) = true := by decide

theorem test_rts15 : gives base [0x01, 0xA3, 0x0F] (fun t => t.pc = 0xF) = true := by decide

theorem test_loop0 : gives ({ base with pc := 0x1005, lc := 0x0 })
    [0x01, 0xA4, 0xFB] (fun t => t.pc = 0x1008 ∧ t.lc = 0x0) = true := by decide

theorem test_loop_w : gives ({ base with pc := 0x1005, lc := 0xFFFFFFFFFFFFFFFF })
    [0x01, 0xA4, 0x7F] (fun t => t.pc = 0x1084 ∧ t.lc = 0xFFFFFFFFFFFFFFFE) = true := by decide

theorem test_sys : gives ({ handled with sr := 0x2000 } |>.setBr 14 0x99)
    [0x01, 0xA5, 0xCD, 0x04]
    (fun t => t.pc = 0xFFFFFFFFFFFF0040 ∧ t.getBr 13 = 0x1004 ∧ t.getBr 14 = 0x99 ∧ t.sr = 0x2000A000) = true := by
      decide

theorem test_sys_f : gives (base |>.setBr 13 0x77)
    [0x02, 0xA5, 0xCD, 0x04] (fun t => t.pc = 0x1004 ∧ t.getBr 13 = 0x77) = true := by decide

theorem test_int : gives ({ handled with pc := 0x2000, sr := 0x2000 } |>.setBr 13 0x99)
    [0x01, 0xA6, 0xCE, 0xC1]
    (fun t => t.pc = 0xFFFFFFFFFFFF0C10 ∧ t.getBr 14 = 0x2000 ∧ t.getBr 13 = 0x99 ∧ t.sr = 0x2000A000) = true := by
      decide

/-! ### Bitfield (41_logic_bitfield_bcd.md) -/

theorem test_bfins_top : gives (base |>.setX 1 0x35 |>.setX 2 0x123)
    [0x01, 0xAA, 0x01, 0x02, 0xFC, 0x0F] (fun t => t.getX 2 = 0x5000000000000123 ∧ t.pc = 0x1006) = true := by decide

theorem test_bfins_full : gives (base |>.setX 1 0x1234 |>.setX 2 0xFFFFFFFFFFFFFFFF)
    [0x01, 0xAA, 0x01, 0x02, 0xC0, 0x0F] (fun t => t.getX 2 = 0x1234 ∧ t.pc = 0x1006) = true := by decide

theorem test_bfset63 : gives base
    [0x01, 0xAA, 0x01, 0x02, 0xFF, 0x1F] (fun t => t.getX 2 = 0x8000000000000000 ∧ t.pc = 0x1006) = true := by decide

theorem test_bfclr : gives (base |>.setX 1 0xFFFFFFFF)
    [0x01, 0xAA, 0x01, 0x02, 0xC8, 0x23] (fun t => t.getX 2 = 0xFFFF00FF ∧ t.pc = 0x1006) = true := by decide

theorem test_bfchg : gives (base |>.setX 1 0xF00)
    [0x01, 0xAA, 0x01, 0x02, 0xC8, 0x33] (fun t => t.getX 2 = 0xF000 ∧ t.pc = 0x1006) = true := by decide

theorem test_bfextu63 : gives (base |>.setX 1 0x8000000000000000)
    [0x01, 0xAA, 0x01, 0x02, 0xFF, 0x4F] (fun t => t.getX 2 = 0x1 ∧ t.pc = 0x1006) = true := by decide

theorem test_bfext63 : gives (base |>.setX 1 0x8000000000000000)
    [0x01, 0xAA, 0x01, 0x02, 0xFF, 0x5F] (fun t => t.getX 2 = 0xFFFFFFFFFFFFFFFF ∧ t.pc = 0x1006) = true := by decide

theorem test_bfext : gives (base |>.setX 1 0xF6AB)
    [0x01, 0xAA, 0x01, 0x02, 0xC8, 0x53] (fun t => t.getX 2 = 0xFFFFFFFFFFFFFFF6 ∧ t.pc = 0x1006) = true := by decide

/-! ### TLB instruction (46_tlb.md) -/

theorem test_tlbnop : gives base [0x01, 0xF0, 0x00, 0x00] (fun t => t.pc = 0x1004) = true := by decide

theorem test_tlbpb : gives { withEntry3 with tlbRegs := { holding with index := 0 } }
    [0x01, 0xF0, 0x01, 0x00] (fun t => t.tlbRegs.index = 3) = true := by decide

theorem test_tlbpb_miss : gives { withEntry3 with tlbRegs := { holding with virtPage := 0x11 } }
    [0x01, 0xF0, 0x01, 0x00] (fun t => t.tlbRegs.index = 0x8000000000000000) = true := by decide

theorem test_tlbrd : gives { withEntry3 with tlbRegs := { TlbRegs.zero with index := 3 } }
    [0x01, 0xF0, 0x02, 0x00] (fun t => t.tlbRegs = holding) = true := by decide

theorem test_tlbwr8 : gives { base with tlbRegs := { holding with wired := 8 } }
    [0x01, 0xF0, 0x03, 0x00] (fun t => t.tlb = State.reset.tlb ∧ t.pc = 0x1004) = true := by decide

theorem test_tlbwi : gives { base with tlbRegs := holding }
    [0x01, 0xF0, 0x04, 0x00] (fun t => t.tlb[3] = entry3 ∧ t.pc = 0x1004) = true := by decide

theorem test_tlben : gives base
    [0x01, 0xF0, 0x05, 0x00] (fun t => t.tlbEnabled = true ∧ t.pc = 0x1004) = true := by decide

theorem test_tlbdis : gives ({ base with tlbEnabled := true, tlb := (State.reset.tlb.set 0 ⟨0, true, false, true, 0,
    1, 1⟩) })
    [0x01, 0xF0, 0x06, 0x00]
    (fun t => t.tlbEnabled = false ∧ t.pc = 0x1004) = true := by decide

theorem test_rd_asid : gives ({ base with tlbRegs := { TlbRegs.zero with asid := ⟨255, 7, true, true, true⟩ } })
    [0x01, 0xF0, 0x77, 0x05] (fun t => t.getX 5 = 0xFF77) = true := by decide

theorem test_wr_asid2 : gives (base |>.setX 3 0x505)
    [0x01, 0xF0, 0x78, 0x03] (fun t => t.tlbRegs.asid = ⟨5, 0, true, false, true⟩) = true := by decide

theorem test_wr_ps5 : refuses (base |>.setX 3 0x5) [0x01, 0xF0, 0x38, 0x03] (.reservedPageSize) = true := by decide

/-! ### System (45_system.md) -/

theorem test_rte2 : gives ({ base with sr := 0x2000A000 } |>.setBr 13 0x1004)
    [0x01, 0xF3] (fun t => t.pc = 0x1004 ∧ t.sr = 0x20002000) = true := by decide

theorem test_rti2 : gives ({ base with sr := 0xA000A000 } |>.setBr 14 0x2000)
    [0x01, 0xF4] (fun t => t.pc = 0x2000 ∧ t.sr = 0xA0002000) = true := by decide

theorem test_memsb : gives ({ base with sr := 0x2000 })
    [0x01, 0xF8] (fun t => t.sr = 0x2000 ∧ t.pc = 0x1002) = true := by decide

theorem test_memdb : gives ({ base with sr := 0x2000 })
    [0x01, 0xF9] (fun t => t.sr = 0x2000 ∧ t.pc = 0x1002) = true := by decide

theorem test_cli : gives ({ base with sr := 0xA000A000 })
    [0x01, 0xFA] (fun t => t.sr = 0xA0002000 ∧ t.pc = 0x1002) = true := by decide

theorem test_sei : gives ({ base with sr := 0x2000 })
    [0x01, 0xFB] (fun t => t.sr = 0xA000 ∧ t.pc = 0x1002) = true := by decide

/-! ### BCD (41_logic_bitfield_bcd.md) -/

theorem test_bcdadd_c : gives (base |>.setX 1 0x99 |>.setX 2 0x1 |>.setX 3 0x1)
    [0x01, 0xF5, 0x01, 0x02, 0x03, 0x00] (fun t => t.getX 3 = 0x0 ∧ t.pc = 0x1006) = true := by decide

theorem test_bcdsub_b : gives (base |>.setX 2 0x1 |>.setX 3 0x1)
    [0x01, 0xF5, 0x01, 0x02, 0x03, 0x01] (fun t => t.getX 3 = 0x99 ∧ t.pc = 0x1006) = true := by decide

theorem test_bcdmul2 : gives (base |>.setX 1 0x99 |>.setX 2 0x99 |>.setX 3 0x1)
    [0x01, 0xF5, 0x01, 0x02, 0x03, 0x02] (fun t => t.getX 3 = 0x9801 ∧ t.pc = 0x1006) = true := by decide

/-! ### Reserved and unassigned words (30_encoding.md R140 to R143) -/

theorem test_res_cond12 : refuses base [0x0C, 0x40, 0x01, 0x02, 0x03] (.reserved .condition) = true := by decide

theorem test_res_90 : refuses base [0x90, 0x40, 0x01, 0x02, 0x03] (.reserved .predicateByte) = true := by decide

theorem test_unimpl : gives handled
    [0x01, 0x42, 0x01, 0x02, 0x03]
    (fun t => t.getBr 13 = 0x1000 ∧ t.pc = 0xFFFFFFFFFFFF0FA0 ∧ t.sr = 0xA000A000) = true := by decide

theorem test_unimpl_false : refuses base [0x02, 0x42, 0x01, 0x02, 0x03] (.unassignedSkipped) = true := by decide

theorem test_res_bfbounds : refuses base [0x01, 0xAA, 0x01, 0x02, 0x48, 0x00] (.bitfieldBounds) = true := by decide

theorem test_res_tlbreg6 : refuses base [0x01, 0xF0, 0x67, 0x05] (.reservedTlbRegister) = true := by decide

/-! ### Translation, interrupts, bus errors, segmentation (20_memory.md, 60_exceptions.md) -/

theorem test_miss : gives (mapped |>.setX 1 0x11230 |>.setX 2 0x55)
    [0x01, 0x86, 0x01, 0x02, 0x00]
    (fun t => t.getX 2 = 0x55 ∧ t.getBr 13 = 0x1000 ∧ t.sr = 0x2000A000 ∧ t.pc = 0xFFFFFFFFFFFF0F80 ∧ t.tlbRegs.dma =
      0x11230) = true := by decide

theorem test_miss2 : gives ({ mapped with tlbRegs := { TlbRegs.zero with dma := 0x999 } } |>.setX 1 0x11230 |>.setX 2
    0x55)
    [0x01, 0x86, 0x01, 0x02, 0x00]
    (fun t => t.getX 2 = 0x55 ∧ t.getBr 13 = 0x1000 ∧ t.sr = 0x2000A000 ∧ t.pc = 0xFFFFFFFFFFFF0F80 ∧ t.tlbRegs.dma =
      0x999) = true := by decide

theorem test_tlb_sw : gives (mapped |>.setX 1 0x10230 |>.setX 2 0x7)
    [0x01, 0x93, 0x01, 0x02, 0x00]
    (fun t => peek t 0x80230 8 = [0x07, 0x00, 0x00, 0x00, 0x00, 0x00, 0x00, 0x00] ∧ t.tlb[3] = ⟨0, false, true, true,
      5, 0x10, 0x80⟩) = true := by decide

theorem test_itlb : gives ({ mapped with pc := 0x5000 })
    [0x01, 0x86, 0x01, 0x02, 0x00]
    (fun t => t.getBr 13 = 0x5000 ∧ t.pc = 0xFFFFFFFFFFFF0F90 ∧ t.tlbRegs.ima = 0x5000) = true := by decide

theorem test_irq : gives ({ handled with sr := 0x2000, schedule := [{ Pins.low with irq := true, vec := 193 }] })
    [0x10] (fun t => t.getBr 14 = 0x1000 ∧ t.sr = 0x2000A000 ∧ t.pc = 0xFFFFFFFFFFFF0C10) = true := by decide

theorem test_irq_masked : gives ({ handled with sr := 0xA000, schedule := [{ Pins.low with irq := true, vec := 193 }]
    })
    [0x10]
    (fun t => t.pc = 0x1001) = true := by decide

theorem test_nmi : gives ({ handled with sr := 0xA000, schedule := [{ Pins.low with nmi := true, vec := 0 }] })
    [0x10] (fun t => t.getBr 14 = 0x1000 ∧ t.sr = 0xA000A000 ∧ t.pc = 0xFFFFFFFFFFFF0FE0) = true := by decide

theorem test_nmi_irq : gives ({ handled with sr := 0x2000, schedule := [{ Pins.low with nmi := true, irq := true, vec
    := 193 }] })
    [0x10]
    (fun t => t.getBr 14 = 0x1000 ∧ t.sr = 0x2000A000 ∧ t.pc = 0xFFFFFFFFFFFF0FE0) = true := by decide

theorem test_absent : gives (handled |>.setX 1 0xB000 |>.setX 2 0x5)
    [0x01, 0x86, 0x01, 0x02, 0x00]
    (fun t => t.getX 2 = 0x5 ∧ t.getBr 13 = 0x1000 ∧ t.pc = 0xFFFFFFFFFFFF0FB0) = true := by decide

theorem test_absent_fetch : gives ({ handled with pc := 0xB000 })
    [] (fun t => t.getBr 13 = 0xB000 ∧ t.pc = 0xFFFFFFFFFFFF0FC0) = true := by decide

theorem test_err_data : gives ({ handled with schedule := [{ Pins.low with dataErr := [0x2007], fetchErr := [0x2007] }] }
      |>.setX 1 0x2000 |>.setX 2 0x5)
    [0x01, 0x86, 0x01, 0x02, 0x00]
    (fun t => t.getX 2 = 0x5 ∧ t.getBr 13 = 0x1000 ∧ t.pc = 0xFFFFFFFFFFFF0FB0) = true := by decide

theorem test_err_fetch : gives ({ handled with schedule := [{ Pins.low with fetchErr := [0x1004] }] })
    [0x01, 0x86, 0x01, 0x02, 0x00] (fun t => t.getBr 13 = 0x1000 ∧ t.pc = 0xFFFFFFFFFFFF0FC0) = true := by decide

theorem test_seg_data : gives (put (base |>.setX 1 0x1000000000002340 |>.setSeg 1 0x100FFF) 0x102340 [0x22])
    [0x01, 0x86, 0x01, 0x02, 0x00] (fun t => t.getX 2 = 0x22) = true := by decide

theorem test_seg_f : gives (put (put (base |>.setX 1 0xF000000000000010 |>.setSeg 15 0x8000) 0x8010 [0x22]) 0x9000
    [0x01, 0x80, 0x01, 0x02, 0x00])
    []
    (fun t => t.getX 2 = 0x22) = true := by decide

/-! ### Witnesses: a concrete state and operands that meet the hypotheses of each statement, clause by clause

The statements without hypotheses (SpecBytesDecode, AliasesMeanTheSame, PredicateConditions,
ConditionsMeanComparisons, ResetState) have none here. -/

theorem test_base_inv : base.Inv :=
  ⟨by decide, by decide, by decide, by decide, by decide, by decide⟩

theorem test_mapped_inv : mapped.Inv :=
  ⟨by decide, by decide, by decide, by decide, by decide, by decide⟩

/-- DecodeOfEncode: the longest instruction, the highest predicate register. -/
theorem test_witness_DecodeOfEncode :
    (Instr.imm64 0xFFFFFFFFFFFFFF (.cas ⟨15, .psig⟩ 255 255 255 255 255)).wf = true ∧ Instr.nop.wf = true := by decide

/-- ReservedEncodingsAreRejected: both ends of the nibbles 9 to 15 and 0 to 8, a well-formed predicate, bytes beside CDh
and CEh; the shortest and the longest prefix, and opcodes beside those that accept one. -/
theorem test_witness_ReservedEncodingsAreRejected :
    (2 ≤ 2 ∧ ([0xFF] : List Byte).length + 1 = 2) ∧ (8 ≤ 8 ∧ ([1, 2, 3, 4, 5, 6, 7] : List Byte).length + 1 = 8) ∧
    (∀ b ∈ ([0x00, 0x1F, 0x30, 0x47, 0x4A, 0x87, 0x96, 0x98, 0x9F, 0xA3, 0xD4, 0xFF] : List Byte), b.toNat / 16 ≠ 2 ∧
      b.toNat ∉ [0x48, 0x49, 0x4C, 0x4D, 0x53, 0x54, 0x55, 0x6B, 0x6C, 0x6D, 0x6E, 0x6F, 0x9D, 0x80, 0x81, 0x82, 0x83,
        0x84, 0x85, 0x86, 0x8E, 0x90, 0x91, 0x92, 0x93, 0x9E, 0x97, 0xA2, 0xD0, 0xD1, 0xD2, 0xD3]) ∧
    (9 ≤ (9#4).toNat ∧ 9 ≤ (15#4).toNat) ∧ ((⟨0, .pt⟩ : Pred).wf = true ∧ (0xCE : Byte) ≠ 0xCD ∧ (0xCC : Byte) ≠ 0xCD) ∧
    ((0xCD : Byte) ≠ 0xCE ∧ (0xCF : Byte) ≠ 0xCE) ∧ ((0#4).toNat ≤ 8 ∧ (8#4).toNat ≤ 8) := by decide

/-- UnassignedOpcodesAreFound: both ends of every range. -/
theorem test_witness_UnassignedOpcodesAreFound :
    (⟨15, .psig⟩ : Pred).wf = true ∧
    (0x42#8).toNat ∈ [0x42, 0x43, 0x46, 0x47, 0x4A, 0x4B, 0x4E, 0x4F, 0x71, 0x8F, 0x94, 0x95, 0x99, 0x9B, 0x9F, 0xA0,
      0xA1, 0xF1, 0xF2, 0xF6, 0xF7] ∧
    (0x58#8).toNat = 0x58 ∧ (0x63#8).toNat = 0x63 ∧ (0x66#8).toNat = 0x66 ∧ (0x6A#8).toNat = 0x6A ∧
    (0x73#8).toNat = 0x73 ∧ (0x7F#8).toNat = 0x7F ∧ (0x87#8).toNat = 0x87 ∧ (0x8D#8).toNat = 0x8D ∧
    (0xAC#8).toNat = 0xAC ∧ (0xAF#8).toNat = 0xAF ∧ (0xB7#8).toNat = 0xB7 ∧ (0xBF#8).toNat = 0xBF ∧
    (0xC4#8).toNat = 0xC4 ∧ (0xCF#8).toNat = 0xCF ∧ (0xD4#8).toNat = 0xD4 ∧ (0xEF#8).toNat = 0xEF ∧
    0xFC ≤ (0xFC#8).toNat ∧ 0xFC ≤ (0xFF#8).toNat ∧ 0x60 ≤ (0x60#8).toNat ∧ 0x60 ≤ (0xFF#8).toNat ∧
    3 ≤ (3#8).toNat ∧ 3 ≤ (255#8).toNat ∧ 9 ≤ (0x09#8).toNat % 16 ∧ 9 ≤ (0xFF#8).toNat % 16 := by decide

/-- `base` with an ADD at the pc. -/
def atAdd : State := put base 0x1000 [0x01, 0x40, 0x01, 0x02, 0x03]

theorem test_atAdd_quiet : atAdd.Quiet := by unfold State.Quiet; decide

/-- StepRunsTheDecodedInstruction. -/
theorem test_witness_StepRunsTheDecodedInstruction :
    atAdd.Quiet ∧ decode (atAdd.sample.fetchBytes atAdd.pc maxBytes).1 = .instr (.add ⟨0, .pt⟩ 1 2 3) 5 :=
  ⟨test_atAdd_quiet, by decide⟩

/-- StepRunsTheEncodedInstruction. -/
theorem test_witness_StepRunsTheEncodedInstruction :
    atAdd.Quiet ∧ (Instr.add ⟨0, .pt⟩ 1 2 3).wf = true ∧
    ∀ (k : Nat) (h : k < (encode (.add ⟨0, .pt⟩ 1 2 3)).length),
      atAdd.sample.fetchByte (atAdd.pc + BitVec.ofNat 64 k) = .ok ((encode (.add ⟨0, .pt⟩ 1 2 3))[k]'h) :=
  ⟨test_atAdd_quiet, by decide, by decide⟩

/-- `base` with the pins of the coming step. -/
def pinned (p : Pins) (before : Pins) : State := { base with schedule := [p], pins := before, sr := 0x2000 }

/-- ResetPinResets. -/
theorem test_witness_ResetPinResets :
    (nextPins base.now [{ Pins.low with rst := true }]).rst = true := by decide

/-- InterruptsAreTaken: `nmi_i` rising; IRQ alone; IRQ under an `nmi_i` that stays high. -/
theorem test_witness_InterruptsAreTaken :
    let nmi := pinned { Pins.low with nmi := true } Pins.low
    let irq := pinned { Pins.low with irq := true, vec := 0xC1 } Pins.low
    let both := pinned { Pins.low with irq := true, nmi := true } { Pins.low with nmi := true }
    let coming (s : State) : Pins := nextPins s.now s.schedule
    ((coming nmi).rst = false ∧ (coming nmi).nmi = true ∧ nmi.pins.nmi = false) ∧
    ((coming irq).rst = false ∧ ((coming irq).nmi = true → irq.pins.nmi = true) ∧ (coming irq).irq = true ∧
      irq.sr.getLsbD 15 = false) ∧
    ((coming both).rst = false ∧ ((coming both).nmi = true → both.pins.nmi = true) ∧ (coming both).irq = true ∧
      both.sr.getLsbD 15 = false) := by decide

/-- `mapped` at an address of a page that no entry maps. -/
def atHole : State := { mapped with pc := 0x5000, sr := 0xA000 }

/-- `mapped` with all but the last byte of a prefixed CAS at the end of page 1, behind which no page is mapped. -/
def atEdge : State :=
  put { mapped with pc := 0x1FF2, sr := 0xA000 } 0x1FF2
    [0x80, 0xDE, 0xBC, 0x9A, 0x78, 0x56, 0x34, 0x12, 0x01, 0x97, 0x01, 0x02, 0x03, 0x04]

/-- `base` at an address where nothing answers. -/
def atAbsent : State := { base with pc := 0xB000 }

/-- `base` with memory whose fetch at the pc ends with `err_i`. -/
def atError : State := { base with schedule := [{ Pins.low with fetchErr := [0x1000] }] }

/-- `mapped` with a second entry for the page of `entry3`. -/
def twice : State := { mapped with tlb := mapped.tlb.set 63 entry3 }

/-- `twice` with the pc on that page. -/
def atTwice : State := { twice with pc := 0x10000, sr := 0xA000 }

theorem test_atHole_quiet : atHole.Quiet := by unfold State.Quiet; decide
theorem test_atEdge_quiet : atEdge.Quiet := by unfold State.Quiet; decide
theorem test_atAbsent_quiet : atAbsent.Quiet := by unfold State.Quiet; decide
theorem test_atError_quiet : atError.Quiet := by unfold State.Quiet; decide
theorem test_atTwice_quiet : atTwice.Quiet := by unfold State.Quiet; decide

/-- FailingFetchTraps: a miss at the first and at the last byte, an absent byte, `err_i` on memory, two entries. -/
theorem test_witness_FailingFetchTraps :
    (atHole.Quiet ∧ ([] : List Byte).length < maxBytes ∧ decode [] = .truncated ∧
      atHole.lookup (atHole.codeAddress atHole.pc) = .miss) ∧
    (atEdge.Quiet ∧
      (let bs : List Byte := [0x80, 0xDE, 0xBC, 0x9A, 0x78, 0x56, 0x34, 0x12, 0x01, 0x97, 0x01, 0x02, 0x03, 0x04]
       bs.length < maxBytes ∧ decode bs = .truncated ∧
       (∀ (k : Nat) (h : k < bs.length), atEdge.sample.fetchByte (atEdge.pc + BitVec.ofNat 64 k) = .ok (bs[k]'h)) ∧
       atEdge.lookup (atEdge.codeAddress (atEdge.pc + BitVec.ofNat 64 bs.length)) = .miss)) ∧
    (atAbsent.Quiet ∧ atAbsent.lookup (atAbsent.codeAddress atAbsent.pc) = .hit 0xB000 none ∧
      atAbsent.sample.codeFails 0xB000 = true) ∧
    (atError.Quiet ∧ atError.lookup (atError.codeAddress atError.pc) = .hit 0x1000 none ∧
      atError.kindAt 0x1000 = .memory ∧ atError.sample.codeFails 0x1000 = true) ∧
    (atTwice.Quiet ∧ atTwice.lookup (atTwice.codeAddress atTwice.pc) = .multiple) :=
  ⟨⟨test_atHole_quiet, by decide⟩, ⟨test_atEdge_quiet, by decide⟩, ⟨test_atAbsent_quiet, by decide⟩,
    ⟨test_atError_quiet, by decide⟩, ⟨test_atTwice_quiet, by decide⟩⟩

/-- UnimplementedInstructionTraps: the predicate true, false, and a reserved word. -/
theorem test_witness_UnimplementedInstructionTraps :
    let go := put base 0x1000 [0x01, 0x42]
    let skip := put base 0x1000 [0x02, 0x42]
    let bad := put base 0x1000 [0x90]
    (go.Quiet ∧ skip.Quiet ∧ bad.Quiet) ∧
    (decode (go.sample.fetchBytes go.pc maxBytes).1 = .unassigned ⟨0, .pt⟩ ∧ go.sample.holds ⟨0, .pt⟩ = true) ∧
    (decode (skip.sample.fetchBytes skip.pc maxBytes).1 = .unassigned ⟨0, .peq⟩ ∧
      skip.sample.holds ⟨0, .peq⟩ = false) ∧
    decode (bad.sample.fetchBytes bad.pc maxBytes).1 = .reserved .predicateByte := by
  unfold State.Quiet; decide

/-- CodeIsFreshAfterBarrierAndBranch: memory, a MEMSB that completes, a branch that is taken. -/
theorem test_witness_CodeIsFreshAfterBarrierAndBranch :
    ∃ u t, exec (.memsb ⟨0, .pt⟩) base = .next u ∧ u.holds ⟨0, .pt⟩ = true ∧ exec (.br ⟨0, .pt⟩ 0x10) u = .next t ∧
      t.kindAt 0x2000 = .memory ∧ base.kindAt 0xC000 = .memory :=
  ⟨_, _, rfl, rfl, rfl, by decide, by decide⟩

/-- FalsePredicateOnlyAdvances: its two clauses, and a prefixed instruction. -/
theorem test_witness_FalsePredicateOnlyAdvances :
    (Instr.add ⟨0, .peq⟩ 1 2 3).pred? = some ⟨0, .peq⟩ ∧ base.holds ⟨0, .peq⟩ = false ∧
    (∀ q, Instr.add ⟨0, .peq⟩ 1 2 3 ≠ .memsb q) ∧
    (Instr.imm16 0 (.ldi ⟨0, .peq⟩ 1 2)).pred? = some ⟨0, .peq⟩ ∧
    (Instr.memsb ⟨0, .peq⟩).pred? = some ⟨0, .peq⟩ := ⟨rfl, by decide, by simp, rfl, rfl⟩

/-- The predicate of every statement whose only hypothesis is that it holds: RegisterRegisterOperations,
BranchesAndReturns (long RTS and BR), CallsLinkAndJump (unprefixed), InstructionsWithoutEffect, SoftwareTraps,
ReturnsRestoreStatus, SysThenRteComesBack, InterruptMaskInstructions, SpecialRegistersRead, TlbRegisterCommands; and of
those that have a second one behind a prefix (see below). -/
theorem test_witness_predicate :
    base.holds ⟨0, .pt⟩ = true ∧ (base.setP 3 4).holds ⟨3, .pltu⟩ = true ∧ base.holds ⟨15, .pge⟩ = true := by decide

/-- Every prefix has an instruction of every kind behind it: ComparesSetFlags, SignedAddAndSubtract,
SignedOverflowTraps, RegisterImmediateOperations, MovesAndLoadImmediates, CallsLinkAndJump, SpecialRegistersWritten. -/
theorem test_witness_prefixes (e : Ext) :
    prefixParts (.imm16 0x80 e) = some (2, immPrefixed 0x80#8 (extField e), e) ∧
    prefixParts (.imm24 0x80 e) = some (3, immPrefixed 0x80#16 (extField e), e) ∧
    prefixParts (.imm32 0x80 e) = some (4, immPrefixed 0x80#24 (extField e), e) ∧
    prefixParts (.imm40 0x80 e) = some (5, immPrefixed 0x80#32 (extField e), e) ∧
    prefixParts (.imm48 0x80 e) = some (6, immPrefixed 0x80#40 (extField e), e) ∧
    prefixParts (.imm56 0x80 e) = some (7, immPrefixed 0x80#48 (extField e), e) ∧
    prefixParts (.imm64 0x80 e) = some (8, immPrefixed 0x80#56 (extField e), e) := ⟨rfl, rfl, rfl, rfl, rfl, rfl, rfl⟩

/-- SignedAddAndSubtract: sums and differences at both ends of the range. -/
theorem test_witness_SignedAddAndSubtract :
    let fits (z : Int) : Prop := -2 ^ 63 ≤ z ∧ z < 2 ^ 63
    let top : Word := 0x7FFFFFFFFFFFFFFF
    let bottom : Word := 0x8000000000000000
    base.holds ⟨0, .pt⟩ = true ∧ ((base.setX 1 top).getX 1).toInt = 2 ^ 63 - 1 ∧
    ((base.setX 1 bottom).getX 1).toInt = -2 ^ 63 ∧
    fits (top.toInt + (0#8).toInt) ∧ fits (bottom.toInt - (0#8).toInt) ∧ fits (top.toInt + bottom.toInt) ∧
    fits (bottom.toInt - bottom.toInt) ∧
    fits (top.toInt + (immPrefixed 0xFFFFFFFFFFFFFF#56 0xFF#8).toInt) ∧
    fits (bottom.toInt - (immPrefixed 0xFF#8 0xFF#8).toInt) := by decide

/-- SignedOverflowTraps: one above and one below the range, in each clause. -/
theorem test_witness_SignedOverflowTraps :
    let fits (z : Int) : Prop := -2 ^ 63 ≤ z ∧ z < 2 ^ 63
    let top : Word := 0x7FFFFFFFFFFFFFFF
    let bottom : Word := 0x8000000000000000
    base.holds ⟨0, .pt⟩ = true ∧ ¬ fits (top.toInt + (1#64).toInt) ∧ ¬ fits (bottom.toInt - (1#64).toInt) ∧
    ¬ fits (top.toInt + (1#8).toInt) ∧ ¬ fits (top.toInt - (0xFF#8).toInt) ∧
    ¬ fits (top.toInt + (immPrefixed 0#8 1#8).toInt) ∧ ¬ fits (bottom.toInt - (immPrefixed 0#56 1#8).toInt) := by decide

/-- PrefixedImmediateIsSigned: no bits, and the 56 of IMM64. -/
theorem test_witness_PrefixedImmediateIsSigned : (0 : Nat) ≤ 56 ∧ (56 : Nat) ≤ 56 := by decide

/-- BitfieldOperations: the fields of one bit at both ends, and the whole word. -/
theorem test_witness_BitfieldOperations :
    base.holds ⟨0, .pt⟩ = true ∧ (0#6).toNat ≤ (0#6).toNat ∧ (63#6).toNat ≤ (63#6).toNat ∧
    (0#6).toNat ≤ (63#6).toNat := by decide

/-- BcdOperations: the digits 00 and 99, and the smallest and the largest byte that is none. -/
theorem test_witness_BcdOperations :
    base.holds ⟨0, .pt⟩ = true ∧ (base.getX 1).toNat % 256 = 16 * 0 + 0 ∧
    ((base.setX 1 0x99).getX 1).toNat % 256 = 16 * 9 + 9 ∧
    ((base.setX 1 0x0A).getX 1).toNat % 256 = 16 * 0 + 10 ∧
    ((base.setX 1 0xFF).getX 1).toNat % 256 = 16 * 15 + 15 := by decide

/-- BranchesAndReturns: LOOP with the counter at 0, 1 and its top. -/
theorem test_witness_BranchesAndReturns :
    base.holds ⟨0, .pt⟩ = true ∧ base.lc = 0 ∧ ({ base with lc := 1 } : State).lc ≠ 0 ∧
    ({ base with lc := 0xFFFFFFFFFFFFFFFF } : State).lc ≠ 0 := by decide

/-! The data accesses: each form at an address whose access reaches memory. -/

theorem test_witness_LoadsFillTheTarget :
    let s := loadable.setX 1 0x2008
    loadForm s (.lw ⟨0, .pt⟩ 1 2 0) = some ⟨⟨0, .pt⟩, s.eaDisp 1 (imm8 0), 8, true, 2, 5⟩ ∧
    loadForm s (.lbux ⟨0, .pt⟩ 1 0 0) = some ⟨⟨0, .pt⟩, s.eaIndex 1 0, 1, false, 0, 5⟩ ∧
    loadForm s (.imm16 0 (.load .lvh ⟨0, .pt⟩ 1 2 4)) =
      some ⟨⟨0, .pt⟩, s.eaDisp 1 (immPrefixed 0#8 4#8), 4, true, 2, 7⟩ ∧
    s.holds ⟨0, .pt⟩ = true ∧ Reaches s (s.eaDisp 1 (imm8 0)) 8 0x2008 none ∧
    Reaches s (s.eaIndex 1 0) 1 0x2008 none ∧ Reaches s (s.eaDisp 1 (immPrefixed 0#8 4#8)) 4 0x200C none ∧
    s.kindAt 0x2008 = .memory :=
  ⟨rfl, rfl, rfl, by unfold Reaches; decide⟩

/-- A load through the TLB, at the last word of its page; a load from a device. -/
theorem test_witness_LoadsFillTheTarget_tlb :
    let s := mapped.setX 1 0x10FF8
    let d := base.setX 1 0xAFFF
    loadForm s (.lw ⟨0, .pt⟩ 1 2 0) = some ⟨⟨0, .pt⟩, s.eaDisp 1 (imm8 0), 8, true, 2, 5⟩ ∧
    loadForm d (.lb ⟨0, .pt⟩ 1 2 0) = some ⟨⟨0, .pt⟩, d.eaDisp 1 (imm8 0), 1, true, 2, 5⟩ ∧
    Reaches s (s.eaDisp 1 (imm8 0)) 8 0x80FF8 (some 3) ∧ Reaches d (d.eaDisp 1 (imm8 0)) 1 0xAFFF none ∧
    d.kindAt 0xAFFF = .device :=
  ⟨rfl, rfl, by unfold Reaches; decide⟩

theorem test_witness_StoresWriteTheirBytes :
    let s := mapped.setX 1 0x10FF8
    s.Inv ∧ storeForm s (.sw ⟨0, .pt⟩ 1 2 0) = some ⟨⟨0, .pt⟩, s.eaDisp 1 (imm8 0), 8, s.getX 2, 5⟩ ∧
    storeForm s (.sbx ⟨0, .pt⟩ 1 0 2) = some ⟨⟨0, .pt⟩, s.eaIndex 1 0, 1, s.getX 2, 5⟩ ∧
    storeForm s (.sti ⟨0, .pt⟩ 1 0xFF 0) = some ⟨⟨0, .pt⟩, s.eaDisp 1 (imm8 0), 8, 0xFF, 5⟩ ∧
    storeForm s (.imm16 0 (.sws ⟨0, .pt⟩ 1 31 0)) =
      some ⟨⟨0, .pt⟩, s.eaDisp 1 (immPrefixed 0#8 0#8), 8, s.sprRead 31, 7⟩ ∧
    s.holds ⟨0, .pt⟩ = true ∧ Reaches s (s.eaDisp 1 (imm8 0)) 8 0x80FF8 (some 3) ∧
    Reaches s (s.eaIndex 1 0) 1 0x80FF8 (some 3) ∧
    Reaches s (s.eaDisp 1 (immPrefixed 0#8 0#8)) 8 0x80FF8 (some 3) :=
  ⟨⟨by decide, by decide, by decide, by decide, by decide, by decide⟩, rfl, rfl, rfl, rfl, by unfold Reaches; decide⟩

theorem test_witness_LwsWritesTheSpecialRegister :
    let s := loadable.setX 1 0x2008
    lwsForm s (.lws ⟨0, .pt⟩ 1 31 0) = some ⟨⟨0, .pt⟩, s.eaDisp 1 (imm8 0), 31, 5⟩ ∧
    lwsForm s (.imm16 0 (.lws ⟨0, .pt⟩ 1 0 0)) = some ⟨⟨0, .pt⟩, s.eaDisp 1 (immPrefixed 0#8 0#8), 0, 7⟩ ∧
    s.holds ⟨0, .pt⟩ = true ∧ Reaches s (s.eaDisp 1 (imm8 0)) 8 0x2008 none ∧
    Reaches s (s.eaDisp 1 (immPrefixed 0#8 0#8)) 8 0x2008 none :=
  ⟨rfl, rfl, by unfold Reaches; decide⟩

/-- CompareAndSwap, the old word equal to the expected one (register 0) and not (register 1). -/
theorem test_witness_CompareAndSwap :
    let s := base.setX 1 0x2008
    s.Inv ∧ casForm s (.cas ⟨0, .pt⟩ 1 0 3 4 0) =
      some ⟨⟨0, .pt⟩, s.eaDisp 1 (imm8 0), s.getX 0, s.getX 3, 4, 7⟩ ∧
    casForm s (.imm64 0 (.cas ⟨0, .pt⟩ 1 1 3 4 0)) =
      some ⟨⟨0, .pt⟩, s.eaDisp 1 (immPrefixed 0#56 0#8), s.getX 1, s.getX 3, 4, 15⟩ ∧
    s.holds ⟨0, .pt⟩ = true ∧ Reaches s (s.eaDisp 1 (imm8 0)) 8 0x2008 none ∧
    Reaches s (s.eaDisp 1 (immPrefixed 0#56 0#8)) 8 0x2008 none ∧
    BitVec.ofNat 64 (littleEndian s 0x2008 8) = s.getX 0 ∧ BitVec.ofNat 64 (littleEndian s 0x2008 8) ≠ s.getX 1 :=
  ⟨⟨by decide, by decide, by decide, by decide, by decide, by decide⟩, rfl, rfl, by unfold Reaches; decide⟩

/-- StringStoresFill: no element, and two words. -/
theorem test_witness_StringStoresFill :
    let s := { base.setX 1 0x2000 with lc := 2 }
    let z := base.setX 1 0x2001
    (z.Inv ∧ z.lc.toNat = 0 ∧ z.holds ⟨0, .pt⟩ = true) ∧ s.Inv ∧ s.holds ⟨0, .pt⟩ = true ∧
    ElementsReach z (z.getX 1) 8 z.lc.toNat (fun _ => 0) (fun _ => none) ∧
    ElementsReach s (s.getX 1) 8 s.lc.toNat (fun k => 0x2000 + BitVec.ofNat 64 (8 * k)) (fun _ => none) :=
  ⟨⟨⟨by decide, by decide, by decide, by decide, by decide, by decide⟩, by decide⟩,
    ⟨by decide, by decide, by decide, by decide, by decide, by decide⟩, by unfold ElementsReach Reaches; decide⟩

/-- StringStoreMissKeepsProgress: the second of two bytes lies behind the mapped page; a first byte that misses. -/
theorem test_witness_StringStoreMissKeepsProgress :
    let s := { mapped.setX 1 0x10FFF with lc := 2 }
    let z := { mapped.setX 1 0x11000 with lc := 1 }
    (s.Inv ∧ s.holds ⟨0, .pt⟩ = true ∧ 1 < s.lc.toNat ∧
      ElementsReach s (s.getX 1) 1 1 (fun k => 0x80FFF + BitVec.ofNat 64 k) (fun _ => some 3) ∧
      (s.getX 1 + BitVec.ofNat 64 (1 * 1)).toNat % 1 = 0 ∧
      s.lookup (s.dataAddress (s.getX 1 + BitVec.ofNat 64 (1 * 1))) = .miss) ∧
    (z.Inv ∧ z.holds ⟨0, .pt⟩ = true ∧ 0 < z.lc.toNat ∧
      ElementsReach z (z.getX 1) 1 0 (fun _ => 0) (fun _ => none) ∧
      z.lookup (z.dataAddress (z.getX 1 + BitVec.ofNat 64 (1 * 0))) = .miss) :=
  ⟨⟨⟨by decide, by decide, by decide, by decide, by decide, by decide⟩, by unfold ElementsReach Reaches; decide⟩,
    ⟨by decide, by decide, by decide, by decide, by decide, by decide⟩, by unfold ElementsReach Reaches; decide⟩

/-- StringStoreBusErrorKeepsProgress: `err_i` on the second of two bytes, behind the TLB; a first word whose last byte is
absent. -/
theorem test_witness_StringStoreBusErrorKeepsProgress :
    let s := { mapped.setX 1 0x10FFE with lc := 2, pins := { Pins.low with dataErr := [0x80FFF] } }
    let z := { base.setX 1 0xBFF8 with lc := 1 }
    (s.Inv ∧ s.holds ⟨0, .pt⟩ = true ∧ 1 < s.lc.toNat ∧
      ElementsReach s (s.getX 1) 1 1 (fun k => 0x80FFE + BitVec.ofNat 64 k) (fun _ => some 3) ∧
      (s.getX 1 + BitVec.ofNat 64 (1 * 1)).toNat % 1 = 0 ∧
      s.lookup (s.dataAddress (s.getX 1 + BitVec.ofNat 64 (1 * 1))) = .hit 0x80FFF (some 3) ∧
      s.kindAt 0x80FFF = .memory ∧ s.dataFails (0x80FFF + BitVec.ofNat 64 0) = true) ∧
    (z.Inv ∧ z.holds ⟨0, .pt⟩ = true ∧ 0 < z.lc.toNat ∧
      ElementsReach z (z.getX 1) 8 0 (fun _ => 0) (fun _ => none) ∧
      (z.getX 1 + BitVec.ofNat 64 (8 * 0)).toNat % 8 = 0 ∧
      z.lookup (z.dataAddress (z.getX 1 + BitVec.ofNat 64 (8 * 0))) = .hit 0xBFF8 none ∧
      z.dataFails (0xBFF8 + BitVec.ofNat 64 7) = true) :=
  ⟨⟨⟨by decide, by decide, by decide, by decide, by decide, by decide⟩, by unfold ElementsReach Reaches; decide⟩,
    ⟨by decide, by decide, by decide, by decide, by decide, by decide⟩, by unfold ElementsReach Reaches; decide⟩

/-- FailingDataAccessTraps: a miss, a word whose last byte is absent, and `err_i` on the last byte of a word of memory. -/
theorem test_witness_FailingDataAccessTraps :
    let s := mapped.setX 1 0x11000
    let u := base.setX 1 0xBFF8
    let v := { base.setX 1 0x2000 with pins := { Pins.low with dataErr := [0x2007] } }
    dataAccess s (.lw ⟨0, .pt⟩ 1 2 0) = some ⟨⟨0, .pt⟩, false, s.eaDisp 1 (imm8 0), 8⟩ ∧
    dataAccess u (.sw ⟨0, .pt⟩ 1 2 0) = some ⟨⟨0, .pt⟩, true, u.eaDisp 1 (imm8 0), 8⟩ ∧
    s.holds ⟨0, .pt⟩ = true ∧ u.holds ⟨0, .pt⟩ = true ∧
    (s.eaDisp 1 (imm8 0)).toNat % 8 = 0 ∧ s.lookup (s.dataAddress (s.eaDisp 1 (imm8 0))) = .miss ∧
    (u.eaDisp 1 (imm8 0)).toNat % 8 = 0 ∧ u.lookup (u.dataAddress (u.eaDisp 1 (imm8 0))) = .hit 0xBFF8 none ∧
    u.dataFails (0xBFF8 + BitVec.ofNat 64 7) = true ∧
    dataAccess v (.lw ⟨0, .pt⟩ 1 2 0) = some ⟨⟨0, .pt⟩, false, v.eaDisp 1 (imm8 0), 8⟩ ∧ v.holds ⟨0, .pt⟩ = true ∧
    (v.eaDisp 1 (imm8 0)).toNat % 8 = 0 ∧ v.lookup (v.dataAddress (v.eaDisp 1 (imm8 0))) = .hit 0x2000 none ∧
    v.kindAt 0x2007 = .memory ∧ v.dataFails (0x2000 + BitVec.ofNat 64 7) = true :=
  ⟨rfl, rfl, by decide, by decide, by decide, by decide, by decide, by decide, by decide, rfl, by decide⟩

/-- `twice` with an entry for the page before that one. -/
def before : State := { twice with tlb := twice.tlb.set 5 { entry3 with vpn := 0xF, ppn := 0x7F } }

/-- UnpredictableDataAccessFaults: a single access, misaligned and matched twice; a misaligned STSW of one element; a
string store matched twice at its first and at its second element. -/
theorem test_witness_UnpredictableDataAccessFaults :
    let s := base.setX 1 0x2007
    let u := twice.setX 1 0x10000
    let w := { base.setX 1 0x2001 with lc := 1 }
    let y := { twice.setX 1 0x10000 with lc := 1 }
    let z := { before.setX 1 0xFFFF with lc := 2 }
    dataAccess s (.lw ⟨0, .pt⟩ 1 2 0) = some ⟨⟨0, .pt⟩, false, s.eaDisp 1 (imm8 0), 8⟩ ∧
    dataAccess u (.sb ⟨0, .pt⟩ 1 2 0) = some ⟨⟨0, .pt⟩, true, u.eaDisp 1 (imm8 0), 1⟩ ∧
    s.holds ⟨0, .pt⟩ = true ∧ u.holds ⟨0, .pt⟩ = true ∧ (s.eaDisp 1 (imm8 0)).toNat % 8 ≠ 0 ∧
    (u.eaDisp 1 (imm8 0)).toNat % 1 = 0 ∧ u.lookup (u.dataAddress (u.eaDisp 1 (imm8 0))) = .multiple ∧
    (w.holds ⟨0, .pt⟩ = true ∧ w.lc ≠ 0 ∧ (w.getX 1).toNat % 8 ≠ 0) ∧
    (y.holds ⟨0, .pt⟩ = true ∧ 0 < y.lc.toNat ∧ ElementsReach y (y.getX 1) 8 0 (fun _ => 0) (fun _ => none) ∧
      (y.getX 1 + BitVec.ofNat 64 (8 * 0)).toNat % 8 = 0 ∧
      y.lookup (y.dataAddress (y.getX 1 + BitVec.ofNat 64 (8 * 0))) = .multiple) ∧
    (z.holds ⟨0, .pt⟩ = true ∧ 1 < z.lc.toNat ∧
      ElementsReach z (z.getX 1) 1 1 (fun _ => 0x7FFFF) (fun _ => some 5) ∧
      (z.getX 1 + BitVec.ofNat 64 (1 * 1)).toNat % 1 = 0 ∧
      z.lookup (z.dataAddress (z.getX 1 + BitVec.ofNat 64 (1 * 1))) = .multiple) :=
  ⟨rfl, rfl, by unfold ElementsReach Reaches; decide⟩

/-- AddressFormation: with and without segmentation, the top nibbles 14 and 15. -/
theorem test_witness_AddressFormation :
    base.cfg.segmentation = true ∧ ({ platform with segmentation := false } : Config).segmentation = false ∧
    (0xEFFFFFFFFFFFFFFF : Word).toNat / 2 ^ 60 ≠ 15 ∧ (0xF000000000000000 : Word).toNat / 2 ^ 60 = 15 := by decide

/-- TranslationByTheTlb: every clause, and the largest page. -/
theorem test_witness_TranslationByTheTlb :
    let hit (s : State) (sa : Word) (i : Fin 64) : Prop :=
      (s.tlb[i.val]'i.isLt).v = true ∧
      ((s.tlb[i.val]'i.isLt).g = true ∨ (s.tlb[i.val]'i.isLt).asid = s.asid) ∧
      ∀ k < 64, 12 + 2 * s.tlbRegs.pageSize.toNat ≤ k →
        (s.tlb[i.val]'i.isLt).vpn.getLsbD (k - 12) = sa.getLsbD k
    base.tlbEnabled = false ∧ mapped.tlbEnabled = true ∧ mapped.tlbRegs.pageSize.toNat ≤ 4 ∧
    ({ TlbRegs.zero with pageSize := 4 } : TlbRegs).pageSize.toNat ≤ 4 ∧
    (∀ i, ¬ hit mapped 0x11000 i) ∧ (hit twice 0x10000 3 ∧ hit twice 0x10000 63) ∧
    (hit mapped 0x10FFF 3 ∧ ∀ j, hit mapped 0x10FFF j → j = 3) := by decide

/-- SpecialRegistersRead: the numbers at the edges of each range. -/
theorem test_witness_SpecialRegistersRead :
    (16#8).toNat = 16 + (0#4).toNat ∧ (31#8).toNat = 16 + (15#4).toNat ∧ (32#8).toNat = 32 + (0#4).toNat ∧
    (47#8).toNat = 32 + (15#4).toNat ∧ (7 ≤ (7#8).toNat ∧ (7#8).toNat ≤ 15) ∧ (7 ≤ (15#8).toNat ∧ (15#8).toNat ≤ 15) ∧
    48 ≤ (48#8).toNat ∧ 48 ≤ (255#8).toNat := by decide

/-- TlbEntryCommands: the first and the last entry, and an Index with bits above bit 5. -/
theorem test_witness_TlbEntryCommands :
    base.holds ⟨0, .pt⟩ = true ∧ base.tlbRegs.index.toNat % 64 = (0 : Fin 64).val ∧
    (0x8000000000000003 : Word).toNat % 64 = (3 : Fin 64).val ∧ (63 : Word).toNat % 64 = (63 : Fin 64).val := by decide

/-- TlbRandomWrite: Wired 0, 7, 8, 9 and 15, page sizes 0 and 4. -/
theorem test_witness_TlbRandomWrite :
    base.holds ⟨0, .pt⟩ = true ∧ base.tlbRegs.pageSize.toNat ≤ 4 ∧ base.tlbRegs.wired.toNat < 8 ∧
    ({ holding with wired := 7 } : TlbRegs).wired.toNat < 8 ∧ 8 ≤ ({ holding with wired := 8 } : TlbRegs).wired.toNat ∧
    8 ≤ ({ holding with wired := 9 } : TlbRegs).wired.toNat ∧ 8 ≤ ({ holding with wired := 15 } : TlbRegs).wired.toNat ∧
    ({ holding with pageSize := 4 } : TlbRegs).pageSize.toNat ≤ 4 := by decide

/-- TlbProbe: page sizes 0 and 4. -/
theorem test_witness_TlbProbe :
    base.holds ⟨0, .pt⟩ = true ∧ base.tlbRegs.pageSize.toNat ≤ 4 ∧
    ({ holding with pageSize := 4 } : TlbRegs).pageSize.toNat ≤ 4 := by decide

/-- TlbRegisterCommands: the page sizes 0 and 4 of the clause that has a bound. -/
theorem test_witness_TlbRegisterCommands :
    base.holds ⟨0, .pt⟩ = true ∧ (base.getX 3).toNat % 8 ≤ 4 ∧ ((base.setX 3 0xFC).getX 3).toNat % 8 ≤ 4 ∧
    base.tlbRegs.wired.toNat < 8 := by decide

/-- ReservedOperandsAreRefused: each clause at its first value. -/
theorem test_witness_ReservedOperandsAreRefused :
    base.holds ⟨0, .pt⟩ = true ∧ (0#6).toNat < (1#6).toNat ∧ (62#6).toNat < (63#6).toNat ∧
    ((6#4).toNat = 6 ∨ 12 ≤ (6#4).toNat) ∧ 12 ≤ (12#4).toNat ∧ 12 ≤ (15#4).toNat ∧
    4 < ((base.setX 3 5).getX 3).toNat % 8 ∧ 4 < ((base.setX 3 7).getX 3).toNat % 8 := by decide

/-- OnlyTheTargetRegisterChanges, OnlyStoresChangeMemory, WritersOfSpecialState, WritersOfStatusAndTlbState: a MOV that
completes, in none of the classes they except. -/
theorem test_witness_frames :
    let i : Instr := .mov ⟨0, .pt⟩ 1 2
    (∃ t, exec i base = .next t) ∧ destX i ≠ some 3 ∧ mayStore base i = false ∧ isCompare i = false ∧
    destSpr i = none ∧ linkOf i = none ∧ writesStatus i = false ∧ isTlbWrite i = false ∧
    ({ TlbRegs.zero with dma := 1 } : TlbRegs).dma ≠ 0 :=
  ⟨⟨_, rfl⟩, by decide⟩

/-- WritersOfTrapLinks: steps that run ADD, BRK and SYS, and one that takes NMI. -/
theorem test_witness_WritersOfTrapLinks :
    (∃ t, step atAdd = .next t) ∧ (∃ t, step base = .next t) ∧
    (∃ t, step (put base 0x1000 [0x01, 0xA5, 0xCD, 0x04]) = .next t) ∧
    ∃ t, step (pinned { Pins.low with nmi := true } Pins.low) = .next t := ⟨⟨_, rfl⟩, ⟨_, rfl⟩, ⟨_, rfl⟩, ⟨_, rfl⟩⟩

/-- StepKeepsInvariant: a state with the invariant and a step of it; the same with `rst_i`. -/
theorem test_witness_StepKeepsInvariant :
    (atAdd.Inv ∧ ∃ t, step atAdd = .next t) ∧
    (pinned { Pins.low with rst := true } Pins.low).Inv ∧
    ∃ t, step (pinned { Pins.low with rst := true } Pins.low) = .next t :=
  ⟨⟨⟨by decide, by decide, by decide, by decide, by decide, by decide⟩, ⟨_, rfl⟩⟩,
    ⟨by decide, by decide, by decide, by decide, by decide, by decide⟩, ⟨_, rfl⟩⟩

/-- KernelModeAndFxeStay: kernel mode in both halves, FXE clear in both. -/
theorem test_witness_KernelModeAndFxeStay :
    let s := { atAdd with sr := 0x2000A000 }
    (∃ t, step s = .next t) ∧ s.KernelLatched ∧ s.FxeClear :=
  ⟨⟨_, rfl⟩, by unfold State.KernelLatched State.FxeClear; decide⟩

/-- MissAddressesAreKept: both miss registers hold an address and the step runs no TLB command. -/
theorem test_witness_MissAddressesAreKept :
    let s := { atAdd with tlbRegs := { TlbRegs.zero with dma := 0x11000, ima := 0x5000 } }
    (nextPins s.now s.schedule).rst = false ∧ (∃ t, step s = .next t) ∧
    (∀ i len, decode (s.sample.fetchBytes s.pc maxBytes).1 = .instr i len → isTlbWrite i = false) ∧
    s.tlbRegs.dma ≠ 0 ∧ s.tlbRegs.ima ≠ 0 := by
  refine ⟨by decide, ⟨_, rfl⟩, fun i len h => ?_, by decide, by decide⟩
  have e : decode (({ atAdd with tlbRegs := { TlbRegs.zero with dma := 0x11000, ima := 0x5000 } } :
      State).sample.fetchBytes 0x1000 maxBytes).1 = .instr (.add ⟨0, .pt⟩ 1 2 3) 5 := by decide
  have h' := e.symm.trans h
  cases h'
  rfl

end Sys2Proof.Tests
end

section
/-!
PROOFS. The decoder and the encoder (30_encoding.md R110 to R144): the fields of a byte, the predicate byte, one rule
for each format whose fields share bytes, what stands behind a prefix, and the round trip of every instruction.
-/

namespace Sys2Proof

/-! ### Fields of a byte -/

@[simp] theorem loNibble_append (a b : BitVec 4) : loNibble (a ++ b) = b := BitVec.extractLsb'_append_eq_right

@[simp] theorem hiNibble_append (a b : BitVec 4) : hiNibble (a ++ b) = a := BitVec.extractLsb'_append_eq_left

/-- A field of `m` bits and the field of `n` bits directly below it are one field. -/
theorem extractLsb'_append_below {w : Nat} (v : BitVec w) (k m n : Nat) :
    v.extractLsb' (k + n) m ++ v.extractLsb' k n = v.extractLsb' k (m + n) :=
  BitVec.extractLsb'_append_extractLsb'_eq_extractLsb' rfl

/-! ### The predicate byte (R110 to R112) -/

theorem Cond.ofCode_code (c : Cond) : Cond.ofCode c.code = some c := by cases c <;> rfl

theorem Cond.code_eq_zero_iff (c : Cond) : c.code = 0#4 ↔ c = .pf := by cases c <;> decide

theorem Pred.wf_iff (p : Pred) : p.wf = true ↔ p.cond ≠ .pf ∧ ¬(p.pn = 1#4 ∧ p.cond = .pt) := by
  simp [Pred.wf, imp_iff_not_or]

@[simp] theorem Pred.loNibble_byte (p : Pred) : loNibble p.byte = p.cond.code := loNibble_append _ _

@[simp] theorem Pred.hiNibble_byte (p : Pred) : hiNibble p.byte = p.pn := hiNibble_append _ _

/-- A predicate that has an encoding is what its byte says: the byte is not one of those that R111 takes first (BRK,
NOP, the short RTS, those with low nibble 0). -/
theorem lead_predByte {p : Pred} (h : p.wf = true) : lead p.byte = .ordinary p := by
  obtain ⟨hpf, hrts⟩ := (Pred.wf_iff p).1 h
  have hcode : p.cond.code ≠ 0#4 := fun e => hpf ((Cond.code_eq_zero_iff _).1 e)
  have hbrk : p.byte ≠ 0x00#8 := fun e => hcode (by rw [← Pred.loNibble_byte, e]; rfl)
  have hnop : p.byte ≠ 0x10#8 := fun e => hcode (by rw [← Pred.loNibble_byte, e]; rfl)
  have hshort : p.byte ≠ 0x11#8 := by
    intro e
    have hpn : p.pn = 1#4 := by rw [← Pred.hiNibble_byte, e]; rfl
    have hpt : Cond.ofCode p.cond.code = some .pt := by rw [← Pred.loNibble_byte, e]; rfl
    rw [Cond.ofCode_code, Option.some.injEq] at hpt
    exact hrts ⟨hpn, hpt⟩
  unfold lead
  rw [if_neg hbrk, if_neg hnop, if_neg hshort, Pred.loNibble_byte, if_neg hcode, Cond.ofCode_code, Pred.hiNibble_byte]

theorem decode_predByte {p : Pred} (h : p.wf = true) (r : List Byte) :
    decode (p.byte :: r) = decodeOrdinary p r := by
  simp only [decode, lead_predByte h]

theorem decodeExt_predByte {p : Pred} (h : p.wf = true) (r : List Byte) :
    decodeExt (p.byte :: r) = decodeExtOrdinary p r := by
  simp only [decodeExt, lead_predByte h]

/-! ### Opcodes that hold an operand (R123) -/

theorem decodeOrdinary_tst (p : Pred) (pt : BitVec 4) (r : List Byte) :
    decodeOrdinary p ((0#4 ++ pt) :: r) = fmt1 (.tst p pt) r := by
  simp only [decodeOrdinary, hiNibble_append, loNibble_append]

theorem decodeOrdinary_cmp (p : Pred) (pt : BitVec 4) (r : List Byte) :
    decodeOrdinary p ((1#4 ++ pt) :: r) = fmt2 (.cmp p pt) r := by
  simp only [decodeOrdinary, hiNibble_append, loNibble_append]

theorem decodeOrdinary_cmpi (p : Pred) (pt : BitVec 4) (r : List Byte) :
    decodeOrdinary p ((2#4 ++ pt) :: r) = fmt2 (.cmpi p pt) r := by
  simp only [decodeOrdinary, hiNibble_append, loNibble_append]

theorem decodeExtOrdinary_cmpi (p : Pred) (pt : BitVec 4) (r : List Byte) :
    decodeExtOrdinary p ((2#4 ++ pt) :: r) = ext2 (.cmpi p pt) r := by
  simp only [decodeExtOrdinary, hiNibble_append, loNibble_append]

theorem decodeOrdinary_br (p : Pred) (disp : BitVec 12) (r : List Byte) :
    decodeOrdinary p ((3#4 ++ disp.extractLsb' 8 4) :: disp.extractLsb' 0 8 :: r) = .instr (.br p disp) 3 := by
  have hdisp : disp.extractLsb' 8 4 ++ disp.extractLsb' 0 8 = disp :=
    (extractLsb'_append_below disp 0 4 8).trans BitVec.extractLsb'_eq_self
  simp only [decodeOrdinary, hiNibble_append, loNibble_append, fmt1, hdisp]

/-! ### Immediates of several bytes: joined top byte first they are the number (R114, R115) -/

theorem byteAt_append_byteAt {w : Nat} (v : BitVec w) (n : Nat) :
    byteAt v (n + 1) ++ byteAt v n = v.extractLsb' (8 * n) (8 + 8) :=
  extractLsb'_append_below v (8 * n) 8 8

/-- The bytes above byte `n` and that byte are one field. -/
theorem extractLsb'_append_byteAt {w : Nat} (v : BitVec w) (k m n : Nat) (h : k = 8 * n + 8) :
    v.extractLsb' k m ++ byteAt v n = v.extractLsb' (8 * n) (m + 8) := by
  rw [h]; exact extractLsb'_append_below v (8 * n) m 8

theorem join_bytes16 (k : BitVec 16) : byteAt k 1 ++ byteAt k 0 = k := by
  simp only [byteAt_append_byteAt]; exact BitVec.extractLsb'_eq_self

theorem join_bytes24 (k : BitVec 24) : byteAt k 2 ++ byteAt k 1 ++ byteAt k 0 = k := by
  simp only [byteAt_append_byteAt, extractLsb'_append_byteAt]; exact BitVec.extractLsb'_eq_self

theorem join_bytes32 (k : BitVec 32) : byteAt k 3 ++ byteAt k 2 ++ byteAt k 1 ++ byteAt k 0 = k := by
  simp only [byteAt_append_byteAt, extractLsb'_append_byteAt]; exact BitVec.extractLsb'_eq_self

theorem join_bytes40 (k : BitVec 40) : byteAt k 4 ++ byteAt k 3 ++ byteAt k 2 ++ byteAt k 1 ++ byteAt k 0 = k := by
  simp only [byteAt_append_byteAt, extractLsb'_append_byteAt]; exact BitVec.extractLsb'_eq_self

theorem join_bytes48 (k : BitVec 48) :
    byteAt k 5 ++ byteAt k 4 ++ byteAt k 3 ++ byteAt k 2 ++ byteAt k 1 ++ byteAt k 0 = k := by
  simp only [byteAt_append_byteAt, extractLsb'_append_byteAt]; exact BitVec.extractLsb'_eq_self

theorem join_bytes56 (k : BitVec 56) :
    byteAt k 6 ++ byteAt k 5 ++ byteAt k 4 ++ byteAt k 3 ++ byteAt k 2 ++ byteAt k 1 ++ byteAt k 0 = k := by
  simp only [byteAt_append_byteAt, extractLsb'_append_byteAt]; exact BitVec.extractLsb'_eq_self

/-! ### Formats whose bytes hold two fields (R115) -/

theorem fmtJsr_bytes (p : Pred) (brt br : BReg) (off : BitVec 24) (rest : List Byte) :
    fmtJsr p ((br ++ brt) :: (bytes24 off ++ rest)) = .instr (jsrRow p brt br off) 6 := by
  have hoff : off.extractLsb' 16 8 ++ off.extractLsb' 8 8 ++ off.extractLsb' 0 8 = off := join_bytes24 off
  simp only [fmtJsr, bytes24, List.cons_append, loNibble_append, hiNibble_append, hoff]

theorem extJsr_bytes (p : Pred) (brt br : BReg) (off : BitVec 24) (rest : List Byte) :
    extJsr p ((br ++ brt) :: (bytes24 off ++ rest)) = .ext (.jsr p brt br off) 6 := by
  have hoff : off.extractLsb' 16 8 ++ off.extractLsb' 8 8 ++ off.extractLsb' 0 8 = off := join_bytes24 off
  simp only [extJsr, bytes24, List.cons_append, loNibble_append, hiNibble_append, hoff]

theorem decodeOrdinary_rts (p : Pred) (im br : BitVec 4) (rest : List Byte) :
    decodeOrdinary p (0xA3#8 :: (br ++ im) :: rest) = .instr (.rts p im br) 3 := by
  have hfmt : decodeOrdinary p (0xA3#8 :: (br ++ im) :: rest) =
      .instr (.rts p (loNibble (br ++ im)) (hiNibble (br ++ im))) 3 := rfl
  rw [hfmt, loNibble_append, hiNibble_append]

theorem fmtBf_bytes {func : BitVec 4} {p : Pred} {ra rt : Reg} {mb me : BitVec 6} {i : Instr}
    (h : bfRow func p ra rt mb me = some i) (rest : List Byte) :
    fmtBf p (ra :: rt :: (me.extractLsb' 0 2 ++ mb) :: (func ++ me.extractLsb' 2 4) :: rest) = .instr i 6 := by
  have hmb : (me.extractLsb' 0 2 ++ mb).extractLsb' 0 6 = mb := BitVec.extractLsb'_append_eq_right
  have hlow : (me.extractLsb' 0 2 ++ mb).extractLsb' 6 2 = me.extractLsb' 0 2 := BitVec.extractLsb'_append_eq_left
  have hme : me.extractLsb' 2 4 ++ me.extractLsb' 0 2 = me :=
    (extractLsb'_append_below me 0 4 2).trans BitVec.extractLsb'_eq_self
  simp only [fmtBf, loNibble_append, hiNibble_append, hmb, hlow, hme, h]

theorem fmtTlb_bytes {cmd : BitVec 4} {p : Pred} {tn : BitVec 4} {r : Reg} {i : Instr}
    (h : tlbRow cmd p tn r = some i) (rest : List Byte) :
    fmtTlb p ((tn ++ cmd) :: r :: rest) = .instr i 4 := by
  simp only [fmtTlb, loNibble_append, hiNibble_append, h]

/-! ### Behind a prefix (R116, R119) -/

/-- The extended instruction is what its bytes say, whatever follows. -/
theorem decodeExt_encode {e : Ext} (h : e.pred.wf = true) (rest : List Byte) :
    decodeExt (e.encode ++ rest) = .ext e e.encode.length := by
  cases e with
  | alu op p ra rt imm => cases op <;> exact decodeExt_predByte h _
  | load op p ra rt off => cases op <;> exact decodeExt_predByte h _
  | store op p ra rs off => cases op <;> exact decodeExt_predByte h _
  | cmpi p pt ra imm => exact (decodeExt_predByte h _).trans (decodeExtOrdinary_cmpi p pt _)
  | jsr p brt br off => exact (decodeExt_predByte h _).trans (extJsr_bytes p brt br off rest)
  | ldi p | ldis p | lws p | sws p | cas p => exact decodeExt_predByte h _

/-- A prefix row: `bytes` are the prefix's, first byte to last, and `f` the row. -/
theorem decode_encode_prefixed {n : Nat} (bytes : List Byte) (f : Ext → Instr) {e : Ext} (h : e.pred.wf = true)
    (hlen : bytes.length = n) (henc : encode (f e) = bytes ++ e.encode)
    (hrow : ∀ r, decode (bytes ++ r) = withPrefix n f (decodeExt r)) (rest : List Byte) :
    decode (encode (f e) ++ rest) = .instr (f e) (encode (f e)).length := by
  rw [henc, List.append_assoc, hrow, decodeExt_encode h, List.length_append, hlen]
  rfl

/-! ### The round trip (R13, R113) -/

/-- An instruction's bytes decode to its row and its length, whatever follows. Of the rows that are not named below the
opcode byte is fixed and every operand fills a byte, so that the format reads the operands off. -/
theorem decode_encode {i : Instr} (h : i.wf = true) (rest : List Byte) :
    decode (encode i ++ rest) = .instr i.canonical (encode i).length := by
  cases i with
  | brk | nop | rtsShort => rfl
  | imm16 k e =>
    exact decode_encode_prefixed [0x20, k] (.imm16 k) h rfl rfl (fun _ => rfl) rest
  | imm24 k e =>
    exact decode_encode_prefixed [0x30, byteAt k 0, byteAt k 1] (.imm24 k) h rfl rfl
      (fun r => congrArg (fun v => withPrefix 3 (.imm24 v) (decodeExt r)) (join_bytes16 k)) rest
  | imm32 k e =>
    exact decode_encode_prefixed [0x40, byteAt k 0, byteAt k 1, byteAt k 2] (.imm32 k) h rfl rfl
      (fun r => congrArg (fun v => withPrefix 4 (.imm32 v) (decodeExt r)) (join_bytes24 k)) rest
  | imm40 k e =>
    exact decode_encode_prefixed [0x50, byteAt k 0, byteAt k 1, byteAt k 2, byteAt k 3] (.imm40 k) h rfl rfl
      (fun r => congrArg (fun v => withPrefix 5 (.imm40 v) (decodeExt r)) (join_bytes32 k)) rest
  | imm48 k e =>
    exact decode_encode_prefixed [0x60, byteAt k 0, byteAt k 1, byteAt k 2, byteAt k 3, byteAt k 4] (.imm48 k) h rfl rfl
      (fun r => congrArg (fun v => withPrefix 6 (.imm48 v) (decodeExt r)) (join_bytes40 k)) rest
  | imm56 k e =>
    exact decode_encode_prefixed [0x70, byteAt k 0, byteAt k 1, byteAt k 2, byteAt k 3, byteAt k 4, byteAt k 5]
      (.imm56 k) h rfl rfl
      (fun r => congrArg (fun v => withPrefix 7 (.imm56 v) (decodeExt r)) (join_bytes48 k)) rest
  | imm64 k e =>
    exact decode_encode_prefixed
      [0x80, byteAt k 0, byteAt k 1, byteAt k 2, byteAt k 3, byteAt k 4, byteAt k 5, byteAt k 6] (.imm64 k) h rfl rfl
      (fun r => congrArg (fun v => withPrefix 8 (.imm64 v) (decodeExt r)) (join_bytes56 k)) rest
  | tst p pt ra => exact (decode_predByte h _).trans (decodeOrdinary_tst p pt _)
  | cmp p pt ra rb => exact (decode_predByte h _).trans (decodeOrdinary_cmp p pt _)
  | cmpi p pt ra imm => exact (decode_predByte h _).trans (decodeOrdinary_cmpi p pt _)
  | br p disp => exact (decode_predByte h _).trans (decodeOrdinary_br p disp rest)
  | jsr p brt br off => exact (decode_predByte h _).trans (fmtJsr_bytes p brt br off rest)
  | bsr p brt off => exact (decode_predByte h _).trans (fmtJsr_bytes p brt 15#4 off rest)
  | jmp p br off => exact (decode_predByte h _).trans (fmtJsr_bytes p 0#4 br off rest)
  | rts p im br => exact (decode_predByte h _).trans (decodeOrdinary_rts p im br rest)
  | bfins p ra rt mb me | bfset p ra rt mb me | bfclr p ra rt mb me | bfchg p ra rt mb me | bfextu p ra rt mb me
  | bfext p ra rt mb me => exact (decode_predByte h _).trans (fmtBf_bytes rfl rest)
  | tlbnop p tn r | tlbpb p tn r | tlbrd p tn r | tlbwr p tn r | tlbwi p tn r | tlben p tn r | tlbdis p tn r
  | tlbrdreg p tn r | tlbwrreg p tn r => exact (decode_predByte h _).trans (fmtTlb_bytes rfl rest)
  | _ => exact decode_predByte h _

/-- Settles O2: byte 0 gives the predicate or the prefix back, and then each format gives its fields back. -/
theorem decodeOfEncode : Obligations.DecodeOfEncode := fun _ rest h => decode_encode h rest

end Sys2Proof
end

section
/-!
PROOFS. The step and predication (00_scope.md R16, 60_exceptions.md R390, 70_reset_and_hazards.md R432): what a quiet
boundary leads to, and what is left of an instruction under a false predicate.
-/

namespace Sys2Proof.Machine

variable {s : State} {i : Instr}

/-! ### A quiet step -/

/-- With no reset and no interrupt the next instruction runs, in the state with the inputs of the step. -/
theorem State.boundary_of_quiet (h : s.Quiet) : s.boundary = .go s.sample := by
  obtain ⟨hrst, hnmi, hirq⟩ := h
  have noReset : ¬(s.sample.pins.rst = true) := by simp [hrst]
  have noNmi : ¬((s.sample.pins.nmi && !s.pins.nmi) = true) := by simpa using hnmi
  have noIrq : ¬((s.sample.pins.irq && !s.sample.im) = true) := by simpa [State.im] using hirq
  unfold State.boundary
  dsimp only
  rw [if_neg noReset, if_neg noNmi, if_neg noIrq]

theorem State.fetch_of_decode {len : Nat} (h : decode (s.fetchBytes s.pc maxBytes).1 = .instr i len) :
    s.fetch = .run i := by
  simp only [State.fetch, h]

theorem step_of_quiet_run (h : s.Quiet) (hf : s.sample.fetch = .run i) : step s = exec i s.sample := by
  simp only [step, State.boundary_of_quiet h, hf]

/-- Settles O6: a quiet boundary goes on to the fetch, and the fetch runs what it decodes. -/
theorem stepRunsTheDecodedInstruction : Obligations.StepRunsTheDecodedInstruction := by
  intro s i len hq hd
  exact ⟨step_of_quiet_run hq (State.fetch_of_decode hd), rfl⟩

/-! ### Under a false predicate -/

/-- A prefixed instruction's bytes are the prefix's and those of the instruction it extends (R116). -/
theorem encode_length_of_prefixParts {n : Nat} {imm : Word} {e : Ext} (h : prefixParts i = some (n, imm, e)) :
    (encode i).length = n + e.encode.length := by
  rw [Nat.add_comm]
  cases i <;> cases h <;> rfl

theorem State.extended_of_not_holds {e : Ext} (h : s.holds e.pred = false) (n : Nat) (imm : Word) :
    s.extended n imm e = .next (s.advance (n + e.encode.length)) := by
  cases e <;> exact State.predicated_false h _ _

theorem exec_prefixed_of_not_holds {n : Nat} {imm : Word} {e : Ext} (hi : prefixParts i = some (n, imm, e))
    (h : s.holds e.pred = false) : exec i s = .next (s.advance (encode i).length) := by
  rw [exec_of_prefixParts i n imm e s hi, State.extended_of_not_holds h, encode_length_of_prefixParts hi]

/-- Under a false predicate an instruction other than MEMSB is skipped: every meaning is wrapped in `State.predicated`,
but for MEMDB's, which moves the pc in either case (R326). -/
theorem exec_of_not_holds {p : Pred} (hi : i.pred? = some p) (h : s.holds p = false) (hm : ∀ q, i ≠ .memsb q) :
    exec i s = .next (s.advance (encode i).length) := by
  cases i with
  | brk | nop | rtsShort => cases hi
  | imm16 k e | imm24 k e | imm32 k e | imm40 k e | imm48 k e | imm56 k e | imm64 k e =>
    cases hi; exact exec_prefixed_of_not_holds rfl h
  | memsb q => exact absurd rfl (hm q)
  | memdb q => rfl
  | _ => cases hi; exact State.predicated_false h _ _

theorem exec_memsb (p : Pred) (s : State) : exec (.memsb p) s = .next (s.drain.advance 2) := rfl

/-- Settles O14: all but MEMSB are skipped; MEMSB acts whatever its predicate is. -/
theorem falsePredicateOnlyAdvances : Obligations.FalsePredicateOnlyAdvances := by
  intro i p s hi h
  refine ⟨fun hm => exec_of_not_holds hi h hm, ?_⟩
  rintro rfl
  exact exec_memsb p s

end Sys2Proof.Machine
end

section
/-!
PROOFS. What an instruction and a step can do, said once: an instruction has one of eleven effects, a step one of four.
The claims of 10_state.md follow from the effects.
-/

namespace Sys2Proof.Machine

variable {s t u : State} {i : Instr}

/-! ### Special register writes leave the rest of the state alone -/

/-- A special register write changes the loop counter, the ASID, the predicate, branch and segment registers, at most. -/
theorem State.sprWrite_frame (s : State) (n : SprNum) (v : Word) :
    s.sprWrite n v = { s with lc := (s.sprWrite n v).lc, p := (s.sprWrite n v).p, asid := (s.sprWrite n v).asid,
                              br := (s.sprWrite n v).br, seg := (s.sprWrite n v).seg } := by
  obtain ⟨-, h⟩ | ⟨-, h⟩ | ⟨-, h⟩ | ⟨r, -, h⟩ | ⟨r, -, h⟩ | ⟨-, -, -, -, -, h⟩ := s.sprWrite_cases n v <;> rw [h]
  · rfl
  · simp only [State.setPregs]
  · rfl
  · unfold State.setBr; split <;> rfl
  · rfl

@[simp] theorem State.sprWrite_x (s : State) (n : SprNum) (v : Word) : (s.sprWrite n v).x = s.x := by
  rw [State.sprWrite_frame]
@[simp] theorem State.sprWrite_sr (s : State) (n : SprNum) (v : Word) : (s.sprWrite n v).sr = s.sr := by
  rw [State.sprWrite_frame]
@[simp] theorem State.sprWrite_tlb (s : State) (n : SprNum) (v : Word) : (s.sprWrite n v).tlb = s.tlb := by
  rw [State.sprWrite_frame]
@[simp] theorem State.sprWrite_tlbEnabled (s : State) (n : SprNum) (v : Word) :
    (s.sprWrite n v).tlbEnabled = s.tlbEnabled := by
  rw [State.sprWrite_frame]
@[simp] theorem State.sprWrite_tlbRegs (s : State) (n : SprNum) (v : Word) : (s.sprWrite n v).tlbRegs = s.tlbRegs := by
  rw [State.sprWrite_frame]
@[simp] theorem State.sprWrite_tick (s : State) (n : SprNum) (v : Word) : (s.sprWrite n v).tick = s.tick := by
  rw [State.sprWrite_frame]
@[simp] theorem State.sprWrite_mem (s : State) (n : SprNum) (v : Word) : (s.sprWrite n v).mem = s.mem := by
  rw [State.sprWrite_frame]
@[simp] theorem State.sprWrite_pins (s : State) (n : SprNum) (v : Word) : (s.sprWrite n v).pins = s.pins := by
  rw [State.sprWrite_frame]
@[simp] theorem State.sprWrite_schedule (s : State) (n : SprNum) (v : Word) :
    (s.sprWrite n v).schedule = s.schedule := by
  rw [State.sprWrite_frame]
@[simp] theorem State.sprWrite_now (s : State) (n : SprNum) (v : Word) : (s.sprWrite n v).now = s.now := by
  rw [State.sprWrite_frame]
@[simp] theorem State.sprWrite_cfg (s : State) (n : SprNum) (v : Word) : (s.sprWrite n v).cfg = s.cfg := by
  rw [State.sprWrite_frame]

/-- A TLB register write changes the TLB registers alone, and puts no page size above 4 there (10_state.md R60). -/
theorem State.tlbRegWrite_cases {tn : BitVec 4} {v : Word} (h : s.tlbRegWrite tn v = .ok t) :
    ∃ q, t = s.setTlbRegs q ∧ (s.tlbRegs.pageSize.toNat ≤ 4 → q.pageSize.toNat ≤ 4) := by
  unfold State.tlbRegWrite at h
  split at h
  case h_3 => cases h; exact ⟨s.tlbRegs, rfl, id⟩
  case h_4 =>
    split at h
    · next hv => cases h; exact ⟨_, rfl, fun _ => hv⟩
    · cases h
  case h_12 => cases h
  all_goals cases h; exact ⟨_, rfl, id⟩

/-! ### The effects -/

/-- The instructions that count the loop counter down as they store (44_load_store.md R300, R301). -/
def IsStringStore (i : Instr) : Prop := ∃ p a b, i = .stsb p a b ∨ i = .stsw p a b

/-- `u` is `s` as the data accesses of `i`, or MEMSB, leave it: what they store, the D bits they set, a data miss they
record, and the loop counter of a string store. -/
structure Accessed (i : Instr) (s u : State) : Prop where
  frame   : ∃ lc mem lag tlb dma,
    u = { s with lc := lc, mem := mem, lag := lag, tlb := tlb, tlbRegs := { s.tlbRegs with dma := dma } }
  counter : u.lc = s.lc ∨ IsStringStore i
  wf      : Memory.wf s.mem = true → Memory.wf u.mem = true
  mem     : SameMemory s u ∨ mayStore s i = true
  dma     : s.tlbRegs.dma ≠ 0 → u.tlbRegs.dma = s.tlbRegs.dma
  entries : SameEntriesButDirty s u

/-- The return address a trap of a kind keeps when `i` raises it: the pc, but behind BRK and SYS (60_exceptions.md R377). -/
def ReturnsTo (i : Instr) (s : State) : TrapKind → Word → Prop
  | .exception, ret =>
    ret = s.pc ∨ (ret = s.pc + 1 ∧ i = .brk) ∨ (ret = s.pc + 4 ∧ ∃ p vec, i = .sys p vec)
  | .interrupt, ret => ret = s.pc

/-- All that an instruction that completes can do to the state. -/
inductive Effect (i : Instr) (s : State) : State → Prop where
  | goesOn (u : State) (len : Nat) (hu : Accessed i s u) : Effect i s (u.advance len)
  | result (u : State) (rt : Reg) (v : Word) (len : Nat) (hu : Accessed i s u) (hd : destX i = some rt) :
      Effect i s ((u.setX rt v).advance len)
  | flags (pt : PReg) (f : BitVec 4) (len : Nat) (hi : isCompare i = true) : Effect i s ((s.setP pt f).advance len)
  | special (n : SprNum) (v : Word) (len : Nat) (hd : destSpr i = some n) : Effect i s ((s.sprWrite n v).advance len)
  | jump (a : Word) : Effect i s (s.jump a)
  | call (brt : BReg) (ret a : Word) (hl : linkOf i = some brt) : Effect i s ((s.setBr brt ret).jump a)
  | loop (p : Pred) (disp : BitVec 8) (v a : Word) (hi : i = .loop p disp) : Effect i s ((s.setLc v).jump a)
  | trap (u : State) (k : TrapKind) (v : BitVec 8) (ret : Word) (hu : Accessed i s u) (hr : ReturnsTo i s k ret) :
      Effect i s (u.enter k v ret)
  | tlb (e : Vector TlbEntry 64) (on : Bool) (q : TlbRegs) (hi : isTlbWrite i = true)
      (hq : s.tlbRegs.pageSize.toNat ≤ 4 → q.pageSize.toNat ≤ 4) :
      Effect i s (State.advance { s with tlb := e, tlbEnabled := on, tlbRegs := q } 4)
  | mask (low : BitVec 16) (hi : writesStatus i = true)
      (hl : low = s.statusLow ||| 0x8000#16 ∨ low = s.statusLow &&& 0x7FFF#16) :
      Effect i s ((s.setStatus s.statusBackup low).advance 2)
  | leave (k : TrapKind) (hi : writesStatus i = true) : Effect i s (s.leave k)

/-! ### What data accesses leave -/

theorem Accessed.refl (i : Instr) (s : State) : Accessed i s s :=
  ⟨⟨_, _, _, _, _, rfl⟩, .inl rfl, id, .inl fun _ => rfl, fun _ => rfl, fun _ => rfl⟩

theorem Accessed.x (h : Accessed i s u) : u.x = s.x := by obtain ⟨_, _, _, _, _, rfl⟩ := h.frame; rfl
theorem Accessed.br (h : Accessed i s u) : u.br = s.br := by obtain ⟨_, _, _, _, _, rfl⟩ := h.frame; rfl
theorem Accessed.pc (h : Accessed i s u) : u.pc = s.pc := by obtain ⟨_, _, _, _, _, rfl⟩ := h.frame; rfl
theorem Accessed.p (h : Accessed i s u) : u.p = s.p := by obtain ⟨_, _, _, _, _, rfl⟩ := h.frame; rfl
theorem Accessed.sr (h : Accessed i s u) : u.sr = s.sr := by obtain ⟨_, _, _, _, _, rfl⟩ := h.frame; rfl
theorem Accessed.asid (h : Accessed i s u) : u.asid = s.asid := by obtain ⟨_, _, _, _, _, rfl⟩ := h.frame; rfl
theorem Accessed.seg (h : Accessed i s u) : u.seg = s.seg := by obtain ⟨_, _, _, _, _, rfl⟩ := h.frame; rfl
theorem Accessed.tlbEnabled (h : Accessed i s u) : u.tlbEnabled = s.tlbEnabled := by
  obtain ⟨_, _, _, _, _, rfl⟩ := h.frame; rfl
theorem Accessed.tlbRegs (h : Accessed i s u) : u.tlbRegs = { s.tlbRegs with dma := u.tlbRegs.dma } := by
  obtain ⟨_, _, _, _, _, rfl⟩ := h.frame; rfl
theorem Accessed.tick (h : Accessed i s u) : u.tick = s.tick := by obtain ⟨_, _, _, _, _, rfl⟩ := h.frame; rfl
theorem Accessed.pins (h : Accessed i s u) : u.pins = s.pins := by obtain ⟨_, _, _, _, _, rfl⟩ := h.frame; rfl
theorem Accessed.schedule (h : Accessed i s u) : u.schedule = s.schedule := by
  obtain ⟨_, _, _, _, _, rfl⟩ := h.frame; rfl
theorem Accessed.now (h : Accessed i s u) : u.now = s.now := by obtain ⟨_, _, _, _, _, rfl⟩ := h.frame; rfl
theorem Accessed.cfg (h : Accessed i s u) : u.cfg = s.cfg := by obtain ⟨_, _, _, _, _, rfl⟩ := h.frame; rfl

/-- The elements a string store has stored. -/
theorem accessed_of_stringFrame (h : s.StringFrame u) (hi : IsStringStore i) : Accessed i s u := by
  obtain ⟨⟨lc, mem, lag, tlb, rfl⟩, hw, he⟩ := h
  refine ⟨⟨lc, mem, lag, tlb, _, rfl⟩, .inr hi, hw, .inr ?_, fun _ => rfl, he⟩
  obtain ⟨p, a, b, rfl | rfl⟩ := hi <;> rfl

/-- What one write leaves. -/
theorem accessed_of_busWrite (hi : mayStore s i = true) (e : Option (Fin 64)) (pa v : Word) (n : Nat) :
    Accessed i s ((s.touched true e).busWrite pa v n) := by
  have hframe : (s.touched true e).busWrite pa v n =
      { s with mem := ((s.touched true e).busWrite pa v n).mem, lag := ((s.touched true e).busWrite pa v n).lag,
               tlb := (s.touched true e).tlb } := by
    rw [State.busWrite_frame]; simp
  refine ⟨⟨_, _, _, _, _, hframe⟩, .inl (by simp), fun hw => ?_, .inr hi, fun _ => by simp, fun j => ?_⟩
  · exact State.busWrite_wf _ _ _ _ (by simpa using hw)
  · simp only [State.busWrite_tlb]
    exact State.touched_entry s true e j

/-- An access that takes its exception adds a recorded miss or a D bit to what the accesses before it left. -/
theorem Accessed.disturbed {y : State} (h : Accessed i s y) (hu : y.Disturbed u) : Accessed i s u := by
  obtain ⟨⟨lc, mem, lag, tlb, dma, rfl⟩, hc, hw, hm, hd, he⟩ := h
  obtain ⟨a, rfl⟩ | ⟨w, e, rfl⟩ := hu
  · unfold State.recordDataMiss
    split
    · next hz => exact ⟨⟨lc, mem, lag, tlb, a, rfl⟩, hc, hw, hm, fun hn => absurd ((hd hn).symm.trans hz) hn, he⟩
    · exact ⟨⟨lc, mem, lag, tlb, dma, rfl⟩, hc, hw, hm, hd, he⟩
  · rw [State.touched_frame]
    refine ⟨⟨lc, mem, lag, _, dma, rfl⟩, hc, hw, hm, hd, fun j => ?_⟩
    have htouched := State.touched_entry
      { s with lc := lc, mem := mem, lag := lag, tlb := tlb, tlbRegs := { s.tlbRegs with dma := dma } } w e j
    rw [he j] at htouched
    exact htouched

/-! ### The effect of each form of instruction -/

theorem Effect.skip (len : Nat) : Effect i s (s.advance len) := .goesOn s len (.refl i s)

theorem Effect.exception (v : BitVec 8) : Effect i s (s.enter .exception v s.pc) :=
  .trap s .exception v s.pc (.refl i s) (.inl rfl)

theorem Effect.dataTrap (h : s.DataTrap t) : Effect i s t := by
  obtain ⟨w, u, hu, rfl⟩ := h
  exact .trap u .exception w s.pc ((Accessed.refl i s).disturbed hu) (.inl rfl)

theorem effect_of_predicated {p : Pred} {len : Nat} {o : Out} (h : s.predicated p len o = .next t)
    (ho : o = .next t → Effect i s t) : Effect i s t := by
  obtain ⟨-, h⟩ | ⟨-, rfl⟩ := State.predicated_cases h
  · exact ho h
  · exact .skip len

theorem effect_of_result {rt : Reg} {p : Pred} {len : Nat} {v : Word} (hd : destX i = some rt)
    (h : s.predicated p len (s.result rt len v) = .next t) : Effect i s t := by
  obtain rfl | rfl := State.result_cases h
  · exact .skip len
  · exact .result s rt v len (.refl i s) hd

/-- The arithmetic and logic instructions: a result, or the overflow exception (40_arithmetic.md R149). -/
theorem effect_of_aluResult {p : Pred} {rt : Reg} {len : Nat} {r : AluResult} (hd : destX i = some rt)
    (h : s.predicated p len (s.aluResult rt len r) = .next t) : Effect i s t :=
  effect_of_predicated h fun h => by
    obtain ⟨v, -, rfl⟩ | ⟨-, rfl⟩ := State.aluResult_cases h
    · exact .result s rt v len (.refl i s) hd
    · exact .exception _

theorem effect_of_bitfield {p : Pred} {rt : Reg} {mb me : BitVec 6} {v : Word} (hd : destX i = some rt)
    (h : s.bitfield p rt mb me v = .next t) : Effect i s t := by
  obtain rfl | rfl := State.bitfield_cases h
  · exact .skip 6
  · exact .result s rt v 6 (.refl i s) hd

theorem effect_of_compare {p : Pred} {pt : PReg} {f : BitVec 4} {len : Nat} (hi : isCompare i = true)
    (h : s.compare p pt f len = .next t) : Effect i s t := by
  obtain rfl | rfl := State.compare_cases h
  · exact .skip len
  · exact .flags pt f len hi

theorem effect_of_writeSpr {p : Pred} {n : SprNum} {v : Word} {len : Nat} (hd : destSpr i = some n)
    (h : s.writeSpr p n v len = .next t) : Effect i s t := by
  obtain rfl | rfl := State.writeSpr_cases h
  · exact .skip len
  · exact .special n v len hd

theorem effect_of_jump {p : Pred} {len : Nat} {a : Word} (h : s.predicated p len (.next (s.jump a)) = .next t) :
    Effect i s t :=
  effect_of_predicated h fun h => by cases h; exact .jump a

/-- A call; JMP is one that keeps no link, since a write to branch register 0 is discarded (43_branch.md R236). -/
theorem effect_of_call {p : Pred} {brt br : BReg} {off : Word} {len : Nat} (hl : linkOf i = some brt ∨ brt = 0)
    (h : s.call p brt br off len = .next t) : Effect i s t := by
  obtain rfl | rfl := State.call_cases h
  · exact .skip len
  · obtain hl | rfl := hl
    · exact .call brt _ _ hl
    · exact .jump _

theorem effect_of_load {k : LoadKind} {p : Pred} {a : Word} {rt : Reg} {len : Nat} (hd : destX i = some rt)
    (h : s.load k p a rt len = .next t) : Effect i s t := by
  obtain rfl | ⟨v, rfl⟩ | ht := State.load_cases h
  · exact .skip len
  · exact .result s rt v len (.refl i s) hd
  · exact .dataTrap ht

theorem effect_of_loadSpr {p : Pred} {a : Word} {n : SprNum} {len : Nat} (hd : destSpr i = some n)
    (h : s.loadSpr p a n len = .next t) : Effect i s t := by
  obtain rfl | ⟨v, rfl⟩ | ht := State.loadSpr_cases h
  · exact .skip len
  · exact .special n v len hd
  · exact .dataTrap ht

theorem effect_of_store {n : Nat} {p : Pred} {a v : Word} {len : Nat} (hi : mayStore s i = true)
    (h : s.store n p a v len = .next t) : Effect i s t := by
  obtain rfl | ⟨pa, e, rfl⟩ | ht := State.store_cases h
  · exact .skip len
  · exact .goesOn _ len (accessed_of_busWrite hi e pa v n)
  · exact .dataTrap ht

theorem effect_of_compareSwap {p : Pred} {a : Word} {rb rc rt : Reg} {len : Nat} (hi : mayStore s i = true)
    (hd : destX i = some rt) (h : s.compareSwap p a rb rc rt len = .next t) : Effect i s t := by
  obtain rfl | ⟨pa, e, v, n, rfl⟩ | ht := State.compareSwap_cases h
  · exact .skip len
  · exact .result _ rt v len (accessed_of_busWrite hi e pa _ n) hd
  · exact .dataTrap ht

theorem effect_of_stringStore {n : Nat} {p : Pred} {ra rb : Reg} (hi : IsStringStore i)
    (h : s.stringStore n p ra rb = .next t) : Effect i s t := by
  obtain rfl | ⟨u, hu, rfl⟩ | ⟨w, y, u, hy, hu, rfl⟩ := State.stringStore_cases h
  · exact .skip 4
  · exact .goesOn u 4 (accessed_of_stringFrame hu hi)
  · exact .trap u .exception w s.pc ((accessed_of_stringFrame hy hi).disturbed hu) (.inl rfl)

/-- A TLB command that leaves the page size alone. -/
theorem effect_of_tlbCommand {p : Pred} {e : Vector TlbEntry 64} {on : Bool} {q : TlbRegs} (hi : isTlbWrite i = true)
    (h : s.tlbCommand p u = .next t) (hu : u = { s with tlb := e, tlbEnabled := on, tlbRegs := q })
    (hq : q.pageSize = s.tlbRegs.pageSize) : Effect i s t := by
  obtain rfl | rfl := State.tlbCommand_cases h
  · exact .skip 4
  · subst hu; exact .tlb e on q hi fun hs => hq ▸ hs

theorem State.writeRandom_frame (s : State) : s.writeRandom = { s with tlb := s.writeRandom.tlb } := by
  unfold State.writeRandom; split <;> rfl

theorem accessed_drain (i : Instr) (s : State) : Accessed i s s.drain :=
  ⟨⟨_, _, _, _, _, rfl⟩, .inl rfl, id, .inl fun _ => rfl, fun _ => rfl, fun _ => rfl⟩

/-- Every instruction that completes has one of the effects. -/
theorem exec_effect (h : exec i s = .next t) : Effect i s t := by
  cases i with
  | brk => cases h; exact .trap s .exception vecBreak (s.pc + 1) (.refl _ s) (.inr (.inl ⟨rfl, rfl⟩))
  | nop | memdb p => cases h; exact .skip _
  | rtsShort => cases h; exact .jump _
  | imm16 k e | imm24 k e | imm32 k e | imm40 k e | imm48 k e | imm56 k e | imm64 k e =>
    cases e with
    | alu op p ra rt imm => exact effect_of_aluResult rfl h
    | cmpi p pt ra imm => exact effect_of_compare rfl h
    | ldi p rt imm => exact effect_of_result rfl h
    | ldis p spr imm => exact effect_of_writeSpr rfl h
    | load op p ra rt off => exact effect_of_load rfl h
    | lws p ra spr off => exact effect_of_loadSpr rfl h
    | store op p ra rs off => exact effect_of_store rfl h
    | sws p ra spr off => exact effect_of_store rfl h
    | cas p ra rb rc rt off => exact effect_of_compareSwap rfl rfl h
    | jsr p brt br off => exact effect_of_call (.inl rfl) h
  | tst | cmp | cmpi => exact effect_of_compare rfl h
  | add | sub | addu | subu | and | or | eor | addu2 | addu4 | addu8 | addu16 => exact effect_of_aluResult rfl h
  | addi | subi | addui | subui | andi | ori | eori | addui2 | addui4 | addui8 | addui16 | lea =>
    exact effect_of_aluResult rfl h
  | ldi | ldit8 | neg | mov | mfspr | mux | bcdadd | bcdsub | bcdmul => exact effect_of_result rfl h
  | ldis | mtspr | movs => exact effect_of_writeSpr rfl h
  | bfins | bfset | bfclr | bfchg | bfextu | bfext => exact effect_of_bitfield rfl h
  | lb | lbu | lc | lcu | lh | lhu | lw | lvb | lvc | lvh | lvw | lbx | lbux | lcx | lcux | lhx | lhux | lwx =>
    exact effect_of_load rfl h
  | lws => exact effect_of_loadSpr rfl h
  | sb | sc | sh | sw | sws | sti | sbx | scx | shx | swx => exact effect_of_store rfl h
  | cas => exact effect_of_compareSwap rfl rfl h
  | stsb p a b => exact effect_of_stringStore ⟨p, a, b, .inl rfl⟩ h
  | stsw p a b => exact effect_of_stringStore ⟨p, a, b, .inr rfl⟩ h
  | br | rts => exact effect_of_jump h
  | jsr | bsr => exact effect_of_call (.inl rfl) h
  | jmp => exact effect_of_call (.inr rfl) h
  | loop p disp =>
    refine effect_of_predicated h fun h => ?_
    split at h
    · cases h; exact .skip 3
    · cases h; exact .loop p disp _ _ rfl
  | sys p vec =>
    exact effect_of_predicated h fun h => by
      cases h; exact .trap s .exception vec _ (.refl _ s) (.inr (.inr ⟨rfl, p, vec, rfl⟩))
  | int p vec => exact effect_of_predicated h fun h => by cases h; exact .trap s .interrupt vec _ (.refl _ s) rfl
  | rte | rti => exact effect_of_predicated h fun h => by cases h; exact .leave _ rfl
  | cli => exact effect_of_predicated h fun h => by cases h; exact .mask _ rfl (.inr rfl)
  | sei => exact effect_of_predicated h fun h => by cases h; exact .mask _ rfl (.inl rfl)
  | memsb p => cases h; exact .goesOn s.drain 2 (accessed_drain _ s)
  | tlbnop =>
    obtain rfl | rfl := State.tlbCommand_cases h
    · exact .skip 4
    · exact .skip 4
  | tlbpb | tlbrd | tlbwi | tlben | tlbdis => exact effect_of_tlbCommand rfl h rfl rfl
  | tlbwr => exact effect_of_tlbCommand rfl h s.writeRandom_frame rfl
  | tlbrdreg p tn rt =>
    refine effect_of_predicated h fun h => ?_
    split at h
    · cases h; exact .result s rt _ 4 (.refl _ s) rfl
    · cases h
  | tlbwrreg p tn rb =>
    refine effect_of_predicated h fun h => ?_
    split at h
    · next u hu =>
      obtain ⟨q, rfl, hq⟩ := State.tlbRegWrite_cases hu
      cases h; exact .tlb s.tlb s.tlbEnabled q rfl hq
    · cases h

/-- All that a step that completes can do: reset, an interrupt, a trap of the fetch, or the effect of the instruction
that its bytes decode to. -/
inductive StepEffect (s : State) : State → Prop where
  | reset (hr : (nextPins s.now s.schedule).rst = true) : StepEffect s s.sample.warmReset
  | interrupt (v : BitVec 8) : StepEffect s (s.sample.enter .interrupt v s.pc)
  | fetchTrap (u : State) (v : BitVec 8) (hu : u = s.sample ∨ ∃ a, u = s.sample.recordCodeMiss a) :
      StepEffect s (u.enter .exception v s.pc)
  | run (i : Instr) (len : Nat) (t : State) (hd : decode (s.sample.fetchBytes s.pc maxBytes).1 = .instr i len)
      (he : Effect i s.sample t) : StepEffect s t

theorem State.boundary_reset (h : s.boundary = .taken t) :
    ((nextPins s.now s.schedule).rst = true ∧ t = s.sample.warmReset) ∨
      ∃ v, t = s.sample.enter .interrupt v s.pc := by
  unfold State.boundary at h
  dsimp only at h
  split_ifs at h with hr
  · exact .inl ⟨hr, (Boundary.taken.inj h).symm⟩
  · exact .inr ⟨_, (Boundary.taken.inj h).symm⟩
  · exact .inr ⟨_, (Boundary.taken.inj h).symm⟩

theorem State.decode_of_fetch_run (h : s.fetch = .run i) :
    ∃ len, decode (s.fetchBytes s.pc maxBytes).1 = .instr i len := by
  unfold State.fetch at h
  split at h
  · next j len hd => cases h; exact ⟨len, hd⟩
  · split at h <;> cases h
  · cases h
  · cases h

/-- Every step that completes has one of the effects. -/
theorem step_effect (h : step s = .next t) : StepEffect s t := by
  obtain hb | ⟨-, ⟨i, hf, he⟩ | ⟨o, hf, ho⟩⟩ := step_cases h
  · obtain ⟨hr, rfl⟩ | ⟨v, rfl⟩ := State.boundary_reset hb
    · exact .reset hr
    · exact .interrupt v
  · obtain ⟨len, hd⟩ := State.decode_of_fetch_run hf
    exact .run i len t hd (exec_effect he)
  · obtain rfl | ⟨a, rfl⟩ | rfl := State.fetch_stop_cases hf ho
    · exact .fetchTrap _ _ (.inl rfl)
    · exact .fetchTrap _ _ (.inr ⟨a, rfl⟩)
    · exact .fetchTrap _ _ (.inl rfl)

end Sys2Proof.Machine
end

section
/-!
PROOFS. What writes the registers, the special state, the status and the TLB (10_state.md): each field's writers read off
the effects of `exec_effect`, then what every step keeps.
-/

namespace Sys2Proof.Machine

variable {s t u : State} {i : Instr}

/-! ### General registers (R20, R31) -/

theorem State.getX_congr (h : t.x = s.x) (r : Reg) : t.getX r = s.getX r := by
  unfold State.getX; simp only [h]

theorem State.setX_congr (h : u.x = s.x) (r : Reg) (v : Word) : (u.setX r v).x = (s.setX r v).x := by
  unfold State.setX; split <;> simp only [h]

theorem State.setX_x_zero (s : State) (r : Reg) (v : Word) : (s.setX r v).x[0] = s.x[0] := by
  by_cases hr : r = 0
  · subst hr; rfl
  · have hn : r.toNat ≠ 0 := fun e => hr (BitVec.eq_of_toNat_eq e)
    simp only [State.setX_x _ _ _ hr, Vector.getElem_set_ne _ _ hn]

/-- The general registers are written by a result, in the target register. -/
theorem Effect.x_cases (h : Effect i s t) : t.x = s.x ∨ ∃ rt v, destX i = some rt ∧ t.x = (s.setX rt v).x := by
  cases h with
  | result u rt v len hu hd => exact .inr ⟨rt, v, hd, State.setX_congr hu.x rt v⟩
  | goesOn u len hu => exact .inl hu.x
  | trap u k v ret hu hr => exact .inl (by simp [hu.x])
  | flags | special | jump | call | loop | tlb | mask | leave => exact .inl (by simp)

theorem Effect.getX (h : Effect i s t) {r : Reg} (hr : destX i ≠ some r) : t.getX r = s.getX r := by
  obtain hx | ⟨rt, v, hd, hx⟩ := h.x_cases
  · exact State.getX_congr hx r
  · have hne : r ≠ rt := by rintro rfl; exact hr hd
    rw [State.getX_congr hx, State.getX_setX, if_neg fun e => hne e.1]

theorem Effect.x_zero (h : Effect i s t) : t.x[0] = s.x[0] := by
  obtain hx | ⟨rt, v, -, hx⟩ := h.x_cases <;> simp only [hx]
  exact State.setX_x_zero s rt v

/-- Settles O50: only a result writes a general register, and register 0 is never read from its cell. -/
theorem onlyTheTargetRegisterChanges : Obligations.OnlyTheTargetRegisterChanges :=
  fun _ _ t _ h => ⟨fun hr => (exec_effect h).getX hr, t.getX_zero⟩

/-! ### Branch registers (R24 to R26) -/

theorem State.getBr_congr (h : t.br = s.br) {r : BReg} (hr : r ≠ 15) : t.getBr r = s.getBr r := by
  unfold State.getBr; simp only [h, if_neg hr]

theorem State.setBr_congr (h : u.br = s.br) (r : BReg) (v : Word) : (u.setBr r v).br = (s.setBr r v).br := by
  unfold State.setBr; split <;> simp only [h]

/-- The cells of the hard-wired branch registers are never written. -/
theorem State.setBr_br_fixed (s : State) (r : BReg) (v : Word) :
    (s.setBr r v).br[0] = s.br[0] ∧ (s.setBr r v).br[15] = s.br[15] := by
  by_cases h0 : r = 0
  · rw [State.setBr_discard _ _ _ (.inl h0)]; exact ⟨rfl, rfl⟩
  by_cases h15 : r = 15
  · rw [State.setBr_discard _ _ _ (.inr h15)]; exact ⟨rfl, rfl⟩
  have hn0 : r.toNat ≠ 0 := fun e => h0 (BitVec.eq_of_toNat_eq e)
  have hn15 : r.toNat ≠ 15 := fun e => h15 (BitVec.eq_of_toNat_eq e)
  simp only [State.setBr_br _ _ _ h0 h15, Vector.getElem_set_ne _ _ hn0, Vector.getElem_set_ne _ _ hn15, and_self]

/-- `t` is entered by a trap of an instruction at `s` that keeps `ret` in the link register of its kind. -/
def TrapEntry (i : Instr) (s t : State) (k : TrapKind) (ret : Word) : Prop :=
  ∃ (u : State) (v : BitVec 8), u.br = s.br ∧ u.sr = s.sr ∧ ReturnsTo i s k ret ∧ t = u.enter k v ret

/-- The branch registers are written by special register writes, calls and traps. -/
theorem Effect.br_cases (h : Effect i s t) :
    t.br = s.br ∨
    (∃ r v, (destSpr i = some (1#4 ++ r) ∨ linkOf i = some r) ∧ t.br = (s.setBr r v).br) ∨
    ∃ k ret, TrapEntry i s t k ret := by
  cases h with
  | goesOn u len hu => exact .inl hu.br
  | result u rt v len hu hd => exact .inl (by simp [hu.br])
  | special n v len hd =>
    obtain ⟨-, h⟩ | ⟨-, h⟩ | ⟨-, h⟩ | ⟨r, rfl, h⟩ | ⟨r, -, h⟩ | ⟨-, -, -, -, -, h⟩ := s.sprWrite_cases n v <;> rw [h]
    · exact .inl rfl
    · exact .inl (by simp)
    · exact .inl rfl
    · exact .inr (.inl ⟨r, v, .inl hd, rfl⟩)
    · exact .inl rfl
    · exact .inl rfl
  | call brt ret a hl => exact .inr (.inl ⟨brt, ret, .inr hl, rfl⟩)
  | trap u k v ret hu hr => exact .inr (.inr ⟨k, ret, u, v, hu.br, hu.sr, hr, rfl⟩)
  | flags | jump | loop | tlb | mask | leave => exact .inl (by simp)

theorem State.enter_getBr_link (u : State) (k : TrapKind) (v : BitVec 8) (ret : Word) :
    (u.enter k v ret).getBr k.link = ret := by
  obtain ⟨hbr, -⟩ := enter_trapFrom u k v ret
  rw [hbr k.link (by cases k <;> decide), if_pos rfl]

theorem State.enter_getBr_other (u : State) (k : TrapKind) (v : BitVec 8) (ret : Word) {r : BReg} (hr : r ≠ k.link)
    (h15 : r ≠ 15) : (u.enter k v ret).getBr r = u.getBr r := by
  obtain ⟨hbr, -⟩ := enter_trapFrom u k v ret
  rw [hbr r h15, if_neg hr]

/-- A branch register other than the pc keeps its value, or the instruction writes it, or a trap of its kind does. -/
theorem Effect.getBr_cases (h : Effect i s t) {r : BReg} (h15 : r ≠ 15) :
    t.getBr r = s.getBr r ∨ (destSpr i = some (1#4 ++ r) ∨ linkOf i = some r) ∨
      ∃ k ret, r = k.link ∧ TrapEntry i s t k ret := by
  obtain hb | ⟨q, v, hw, hb⟩ | ⟨k, ret, htrap⟩ := h.br_cases
  · exact .inl (State.getBr_congr hb h15)
  · by_cases hq : r = q
    · subst hq; exact .inr (.inl hw)
    · exact .inl (by rw [State.getBr_congr hb h15, State.getBr_setBr, if_neg fun e => hq e.1])
  · by_cases hk : r = k.link
    · exact .inr (.inr ⟨k, ret, hk, htrap⟩)
    · obtain ⟨u, v, hbr, -, -, rfl⟩ := htrap
      exact .inl (by rw [State.enter_getBr_other _ _ _ _ hk h15, State.getBr_congr hbr h15])

theorem Effect.br_fixed (h : Effect i s t) : t.br[0] = s.br[0] ∧ t.br[15] = s.br[15] := by
  obtain hb | ⟨r, v, -, hb⟩ | ⟨k, ret, u, v, hbr, -, -, rfl⟩ := h.br_cases
  · simp only [hb, and_self]
  · simp only [hb]; exact s.setBr_br_fixed r v
  · simp only [State.enter_br, State.setBr_congr hbr]; exact s.setBr_br_fixed k.link ret

/-! ### Predicate and segment registers, loop counter, ASID, inputs (R31, R45, R46, R49) -/

theorem sprNum_of_branch {n : SprNum} {r : BReg} (h : n.toNat = 16 + r.toNat) : n = 1#4 ++ r :=
  BitVec.eq_of_toNat_eq (h.trans (by clear h; revert r; decide))

theorem sprNum_of_segment {n : SprNum} {r : BitVec 4} (h : n.toNat = 32 + r.toNat) : n = 2#4 ++ r :=
  BitVec.eq_of_toNat_eq (h.trans (by clear h; revert r; decide))

theorem State.getP_congr (h : t.p = s.p) (r : PReg) : t.getP r = s.getP r := by
  unfold State.getP; simp only [h]

theorem State.getSeg_congr (h : t.seg = s.seg) (r : BitVec 4) : t.getSeg r = s.getSeg r := by
  unfold State.getSeg; simp only [h]

/-- Predicate registers are written by compares and by writes of special register 4. -/
theorem Effect.getP (h : Effect i s t) (hi : isCompare i = false) (hd : destSpr i ≠ some 4) (r : PReg) :
    t.getP r = s.getP r := by
  cases h with
  | flags pt f len hc => rw [hi] at hc; cases hc
  | special n v len hn =>
    obtain ⟨-, hp, -⟩ := sprWritten_of_sprWrite s n v len
    rw [hp r, if_neg (by rintro rfl; exact hd hn)]
  | goesOn u len hu => exact State.getP_congr hu.p r
  | result u rt v len hu => exact State.getP_congr (by simp [hu.p]) r
  | trap u k v ret hu => exact State.getP_congr (by simp [hu.p]) r
  | jump | call | loop | tlb | mask | leave => exact State.getP_congr (by simp) r

/-- The loop counter is written by writes of special register 3, by LOOP and by the string stores. -/
theorem Effect.lc (h : Effect i s t) (hd : destSpr i ≠ some 3) (hl : ∀ p d, i ≠ .loop p d) (hs : ¬ IsStringStore i) :
    t.lc = s.lc := by
  cases h with
  | loop p d v a hi => exact absurd hi (hl p d)
  | special n v len hn =>
    obtain ⟨hlc, -⟩ := sprWritten_of_sprWrite s n v len
    rw [hlc, if_neg (by rintro rfl; exact hd hn)]
  | goesOn u len hu => exact hu.counter.resolve_right hs
  | result u rt v len hu => simpa using hu.counter.resolve_right hs
  | trap u k v ret hu => simpa using hu.counter.resolve_right hs
  | flags | jump | call | tlb | mask | leave => simp

/-- The ASID is written by writes of special register 6. -/
theorem Effect.asid (h : Effect i s t) (hd : destSpr i ≠ some 6) : t.asid = s.asid := by
  cases h with
  | special n v len hn =>
    obtain ⟨-, -, hasid, -⟩ := sprWritten_of_sprWrite s n v len
    rw [hasid, if_neg (by rintro rfl; exact hd hn)]
  | goesOn u len hu => exact hu.asid
  | result u rt v len hu => simp [hu.asid]
  | trap u k v ret hu => simp [hu.asid]
  | flags | jump | call | loop | tlb | mask | leave => simp

/-- Segment registers are written by writes of their special registers. -/
theorem Effect.getSeg (h : Effect i s t) {r : BitVec 4} (hd : destSpr i ≠ some (2#4 ++ r)) :
    t.getSeg r = s.getSeg r := by
  cases h with
  | special n v len hn =>
    obtain ⟨-, -, -, -, hseg, -⟩ := sprWritten_of_sprWrite s n v len
    rw [hseg r, if_neg fun e => hd (hn.trans (congrArg some (sprNum_of_segment e)))]
  | goesOn u len hu => exact State.getSeg_congr hu.seg r
  | result u rt v len hu => exact State.getSeg_congr (by simp [hu.seg]) r
  | trap u k v ret hu => exact State.getSeg_congr (by simp [hu.seg]) r
  | flags | jump | call | loop | tlb | mask | leave => exact State.getSeg_congr (by simp) r

/-- No instruction changes the parameters, TICK or the inputs. -/
theorem Effect.inputs (h : Effect i s t) :
    t.cfg = s.cfg ∧ t.tick = s.tick ∧ t.pins = s.pins ∧ t.schedule = s.schedule ∧ t.now = s.now := by
  cases h with
  | goesOn u len hu => exact ⟨hu.cfg, hu.tick, hu.pins, hu.schedule, hu.now⟩
  | result u rt v len hu => simp [hu.cfg, hu.tick, hu.pins, hu.schedule, hu.now]
  | trap u k v ret hu => simp [hu.cfg, hu.tick, hu.pins, hu.schedule, hu.now]
  | flags | special | jump | call | loop | tlb | mask | leave => simp

/-- Settles O52: each field's writers among the effects are the instructions the statement excepts. -/
theorem writersOfSpecialState : Obligations.WritersOfSpecialState := by
  intro i s t h
  have he := exec_effect h
  refine ⟨fun hi hd => he.getP hi hd, fun hd hl hsb hsw => he.lc hd hl ?_, fun hd => he.asid hd,
    fun r hd => he.getSeg hd, fun r h13 h14 h15 hd hl => ?_, he.inputs⟩
  · rintro ⟨p, a, b, hi | hi⟩
    · exact hsb p a b hi
    · exact hsw p a b hi
  · obtain hr | hw | ⟨k, ret, hk, -⟩ := he.getBr_cases h15
    · exact hr
    · exact absurd hw (not_or.2 ⟨hd, hl⟩)
    · cases k
      · exact absurd hk h13
      · exact absurd hk h14

/-! ### Status register (R38, R376) -/

/-- What entering a trap leaves in SR. -/
theorem enter_status (hu : u.sr = s.sr) (k : TrapKind) (v : BitVec 8) (ret : Word) :
    (u.enter k v ret).sr.extractLsb' 16 16 = s.sr.extractLsb' 0 16 ∧ (u.enter k v ret).km = true ∧
      (u.enter k v ret).im = true := by
  obtain ⟨-, hbackup, hlow, -⟩ := enter_trapFrom u k v ret
  refine ⟨by rw [hbackup, hu], ?_, ?_⟩
  · rw [State.km, hlow 13 (by decide)]; simp
  · rw [State.im, hlow 15 (by decide)]; simp

/-- SR is written by the instructions that write it and by traps. -/
theorem Effect.sr (h : Effect i s t) (hi : writesStatus i = false) :
    t.sr = s.sr ∨ (t.sr.extractLsb' 16 16 = s.sr.extractLsb' 0 16 ∧ t.km = true ∧ t.im = true) := by
  cases h with
  | trap u k v ret hu => exact .inr (enter_status hu.sr k v ret)
  | mask low hw => rw [hi] at hw; cases hw
  | leave k hw => rw [hi] at hw; cases hw
  | goesOn u len hu => exact .inl hu.sr
  | result u rt v len hu => exact .inl (by simp [hu.sr])
  | flags | special | jump | call | loop | tlb => exact .inl (by simp)

/-! ### TLB (R61, R87) -/

/-- The TLB is as data accesses leave it: a miss recorded in DMA if that held 0, and D bits set. -/
def TlbKept (s t : State) : Prop :=
  t.tlbEnabled = s.tlbEnabled ∧ t.tlbRegs = { s.tlbRegs with dma := t.tlbRegs.dma } ∧
    (s.tlbRegs.dma ≠ 0 → t.tlbRegs.dma = s.tlbRegs.dma) ∧ SameEntriesButDirty s t

theorem Accessed.tlbKept (h : Accessed i s u) (hon : t.tlbEnabled = u.tlbEnabled) (hregs : t.tlbRegs = u.tlbRegs)
    (htlb : t.tlb = u.tlb) : TlbKept s t := by
  refine ⟨hon.trans h.tlbEnabled, ?_, fun hd => ?_, fun j => ?_⟩
  · rw [hregs]; exact h.tlbRegs
  · rw [hregs]; exact h.dma hd
  · simp only [htlb]; exact h.entries j

/-- But for the TLB commands, data accesses alone write the TLB. -/
theorem Effect.tlbKept (h : Effect i s t) (hi : isTlbWrite i = false) : TlbKept s t := by
  have none := Accessed.refl i s
  cases h with
  | tlb e on q hw => rw [hi] at hw; cases hw
  | goesOn u len hu => exact hu.tlbKept rfl rfl rfl
  | result u rt v len hu => exact hu.tlbKept (by simp) (by simp) (by simp)
  | trap u k v ret hu => exact hu.tlbKept (by simp) (by simp) (by simp)
  | flags | special | jump | call | loop | mask | leave => exact none.tlbKept (by simp) (by simp) (by simp)

/-- Settles O53: the writers of SR and of the TLB among the effects. -/
theorem writersOfStatusAndTlbState : Obligations.WritersOfStatusAndTlbState :=
  fun _ _ _ h => ⟨fun hi => (exec_effect h).sr hi, fun hi => (exec_effect h).tlbKept hi⟩

/-! ### EPC and IPC over whole steps (R24, R376, R377, R420) -/

/-- What a trap leaves beside its own link register: the other link register alone, the old status saved, S and IM set,
the pc at a vector. -/
def Entered (s t : State) (other : BReg) : Prop :=
  t.getBr other = s.getBr other ∧ t.sr.extractLsb' 16 16 = s.sr.extractLsb' 0 16 ∧ t.km = true ∧ t.im = true ∧
    ∃ v : BitVec 8, t.pc = s.getBr 12 + 16 * v.setWidth 64

theorem enter_entered (hbr : u.br = s.br) (hsr : u.sr = s.sr) (k : TrapKind) (v : BitVec 8) (ret : Word) {other : BReg}
    (ho : other ≠ k.link) (h15 : other ≠ 15) : Entered s (u.enter k v ret) other := by
  obtain ⟨hbackup, hkm, him⟩ := enter_status hsr k v ret
  refine ⟨?_, hbackup, hkm, him, v, ?_⟩
  · rw [State.enter_getBr_other _ _ _ _ ho h15, State.getBr_congr hbr h15]
  · rw [State.enter_pc, State.getBr_congr hbr (by decide)]

theorem State.warmReset_getBr_link (s : State) (k : TrapKind) : s.warmReset.getBr k.link = s.getBr k.link := by
  cases k <;> simp [State.getBr, State.warmReset, TrapKind.link]

/-- A state in which a failing fetch takes its exception. -/
theorem fetchTrap_frame (hu : u = s.sample ∨ ∃ a, u = s.sample.recordCodeMiss a) : u.br = s.br ∧ u.sr = s.sr := by
  obtain rfl | ⟨a, rfl⟩ := hu <;> simp

/-- Settles O54: by the effect of the step; an instruction changes a link register as one of its writers or by a trap of
that register's kind. -/
theorem writersOfTrapLinks : Obligations.WritersOfTrapLinks := by
  intro s t h
  cases step_effect h with
  | reset => exact ⟨.inl (s.sample.warmReset_getBr_link .exception), .inl (s.sample.warmReset_getBr_link .interrupt)⟩
  | interrupt v =>
    have hepc : Entered s (s.sample.enter .interrupt v s.pc) 13 :=
      enter_entered rfl rfl .interrupt v s.pc (by decide) (by decide)
    exact ⟨.inl hepc.1, .inr (.inl ⟨hepc, s.sample.enter_getBr_link .interrupt v s.pc⟩)⟩
  | fetchTrap u v hu =>
    obtain ⟨hbr, hsr⟩ := fetchTrap_frame hu
    have hipc : Entered s (u.enter .exception v s.pc) 14 :=
      enter_entered hbr hsr .exception v s.pc (by decide) (by decide)
    exact ⟨.inr (.inl ⟨hipc, .inl (u.enter_getBr_link .exception v s.pc)⟩), .inl hipc.1⟩
  | run i len _ hd he =>
    constructor
    · obtain hkept | hw | ⟨k, ret, hk, u, v, hbr, hsr, hret, rfl⟩ := he.getBr_cases (r := 13) (by decide)
      · exact .inl hkept
      · exact .inr (.inr ⟨i, len, hd, hw⟩)
      · cases k with
        | interrupt => exact absurd hk (by decide)
        | exception =>
          refine .inr (.inl ⟨enter_entered hbr hsr .exception v ret (by decide) (by decide), ?_⟩)
          have hlink : (u.enter .exception v ret).getBr 13 = ret := u.enter_getBr_link .exception v ret
          rw [hlink]
          obtain hpc | ⟨hpc, hi⟩ | ⟨hpc, hi⟩ := hret
          · exact .inl hpc
          · exact .inr (.inl ⟨hpc, i, len, hd, hi⟩)
          · exact .inr (.inr ⟨hpc, i, len, hd, hi⟩)
    · obtain hkept | hw | ⟨k, ret, hk, u, v, hbr, hsr, hret, rfl⟩ := he.getBr_cases (r := 14) (by decide)
      · exact .inl hkept
      · exact .inr (.inr ⟨i, len, hd, hw⟩)
      · cases k with
        | exception => exact absurd hk (by decide)
        | interrupt =>
          exact .inr (.inl ⟨enter_entered hbr hsr .interrupt v ret (by decide) (by decide),
            (u.enter_getBr_link .interrupt v ret).trans hret⟩)

/-! ### What every step keeps of the status register (R38, R40, R396, R397) -/

/-- A property of a half of SR that traps, the interrupt mask instructions, RTI and reset keep. -/
structure StatusKeeps (P : BitVec 16 → Prop) : Prop where
  entered  : ∀ l, P l → P (l ||| 0xA000#16)
  masked   : ∀ l, P l → P (l ||| 0x8000#16)
  unmasked : ∀ l, P l → P (l &&& 0x7FFF#16)
  reset    : P resetStatus

/-- A property of both halves of SR. -/
def State.BothHalves (P : BitVec 16 → Prop) (s : State) : Prop := P s.statusLow ∧ P s.statusBackup

section
variable {P : BitVec 16 → Prop}

theorem State.bothHalves_congr (h : t.sr = s.sr) (hs : s.BothHalves P) : t.BothHalves P := by
  unfold State.BothHalves State.statusLow State.statusBackup at *; rwa [h]

theorem State.bothHalves_of_append {b l : BitVec 16} (h : t.sr = b ++ l) (hb : P b) (hl : P l) : t.BothHalves P := by
  unfold State.BothHalves State.statusLow State.statusBackup
  rw [h, status_low, status_backup]; exact ⟨hl, hb⟩

theorem State.bothHalves_enter (hP : StatusKeeps P) (hs : s.BothHalves P) (k : TrapKind) (v : BitVec 8) (ret : Word) :
    (s.enter k v ret).BothHalves P :=
  State.bothHalves_of_append (s.enter_sr k v ret) hs.1 (hP.entered _ hs.1)

theorem Effect.bothHalves (hP : StatusKeeps P) (h : Effect i s t) (hs : s.BothHalves P) : t.BothHalves P := by
  have hbackup : P s.statusBackup := hs.2
  cases h with
  | trap u k v ret hu => exact State.bothHalves_enter hP (State.bothHalves_congr hu.sr hs) k v ret
  | mask low hi hl =>
    refine State.bothHalves_of_append rfl hbackup ?_
    obtain rfl | rfl := hl
    · exact hP.masked _ hs.1
    · exact hP.unmasked _ hs.1
  | leave k =>
    cases k with
    | exception => exact State.bothHalves_of_append rfl hbackup hbackup
    | interrupt => exact State.bothHalves_of_append rfl hbackup (hP.unmasked _ hbackup)
  | goesOn u len hu => exact State.bothHalves_congr hu.sr hs
  | result u rt v len hu => exact State.bothHalves_congr (by simp [hu.sr]) hs
  | flags | special | jump | call | loop | tlb => exact State.bothHalves_congr (by simp) hs

theorem StepEffect.bothHalves (hP : StatusKeeps P) (h : StepEffect s t) (hs : s.BothHalves P) : t.BothHalves P := by
  have hsample : s.sample.BothHalves P := hs
  cases h with
  | reset => exact State.bothHalves_of_append rfl hsample.2 hP.reset
  | interrupt v => exact State.bothHalves_enter hP hsample _ _ _
  | fetchTrap u v hu => exact State.bothHalves_enter hP (State.bothHalves_congr (fetchTrap_frame hu).2 hs) _ _ _
  | run i len _ hd he => exact he.bothHalves hP hsample

end

theorem State.kernelLatched_iff (s : State) : s.KernelLatched ↔ s.BothHalves fun l => l.getLsbD 13 = true := by
  simp [State.KernelLatched, State.BothHalves, State.statusLow, State.statusBackup]

theorem State.fxeClear_iff (s : State) : s.FxeClear ↔ s.BothHalves fun l => l.getLsbD 12 = false := by
  simp [State.FxeClear, State.BothHalves, State.statusLow, State.statusBackup]

theorem kernel_statusKeeps : StatusKeeps fun l => l.getLsbD 13 = true where
  entered l h := by rw [BitVec.getLsbD_or, h]; rfl
  masked l h := by rw [BitVec.getLsbD_or, h]; rfl
  unmasked l h := by rw [BitVec.getLsbD_and, h]; rfl
  reset := by decide

theorem fxe_statusKeeps : StatusKeeps fun l => l.getLsbD 12 = false where
  entered l h := by rw [BitVec.getLsbD_or, h]; rfl
  masked l h := by rw [BitVec.getLsbD_or, h]; rfl
  unmasked l h := by rw [BitVec.getLsbD_and, h]; rfl
  reset := by decide

/-- Settles O57: bit S set and bit FXE clear are each kept by all that writes a half of SR. -/
theorem kernelModeAndFxeStay : Obligations.KernelModeAndFxeStay := by
  intro s t h
  have he := step_effect h
  rw [s.kernelLatched_iff, t.kernelLatched_iff, s.fxeClear_iff, t.fxeClear_iff]
  exact ⟨he.bothHalves kernel_statusKeeps, he.bothHalves fxe_statusKeeps⟩

theorem State.sr_eq_append (s : State) : s.sr = s.statusBackup ++ s.statusLow := by
  unfold State.statusBackup State.statusLow
  rw [BitVec.extractLsb'_append_extractLsb'_eq_extractLsb' (by rfl)]; simp

/-- The reserved bits of SR are the same bits of each half (R40). -/
theorem State.reserved_iff (s : State) : s.sr &&& 0x4FFF4FFF#32 = 0 ↔ s.BothHalves fun l => l &&& 0x4FFF#16 = 0 := by
  constructor
  · intro h
    constructor
    · have hlow := congrArg (BitVec.extractLsb' 0 16) h
      rwa [BitVec.extractLsb'_and] at hlow
    · have hbackup := congrArg (BitVec.extractLsb' 16 16) h
      rwa [BitVec.extractLsb'_and] at hbackup
  · rintro ⟨hlow, hbackup⟩
    have hmask : 0x4FFF4FFF#32 = 0x4FFF#16 ++ 0x4FFF#16 := rfl
    rw [s.sr_eq_append, hmask, BitVec.and_append, hlow, hbackup]
    rfl

theorem reserved_statusKeeps : StatusKeeps fun l => l &&& 0x4FFF#16 = 0 where
  entered l h := by rw [BitVec.and_or_distrib_right, h]; rfl
  masked l h := by rw [BitVec.and_or_distrib_right, h]; rfl
  unmasked l h := by rw [BitVec.and_assoc, BitVec.and_comm 0x7FFF#16, ← BitVec.and_assoc, h]; rfl
  reset := by decide

/-! ### The invariant (R20, R25, R26, R40, R60) -/

theorem Effect.wf (h : Effect i s t) (hs : Memory.wf s.mem = true) : Memory.wf t.mem = true := by
  cases h with
  | goesOn u len hu => exact hu.wf hs
  | result u rt v len hu => simpa using hu.wf hs
  | trap u k v ret hu => simpa using hu.wf hs
  | flags | special | jump | call | loop | tlb | mask | leave => simpa using hs

theorem Accessed.pageSize (h : Accessed i s u) : u.tlbRegs.pageSize = s.tlbRegs.pageSize := by
  rw [h.tlbRegs]

theorem Effect.pageSize (h : Effect i s t) (hs : s.tlbRegs.pageSize.toNat ≤ 4) : t.tlbRegs.pageSize.toNat ≤ 4 := by
  cases h with
  | tlb e on q hi hq => exact hq hs
  | goesOn u len hu => simpa [hu.pageSize] using hs
  | result u rt v len hu => simpa [hu.pageSize] using hs
  | trap u k v ret hu => simpa [hu.pageSize] using hs
  | flags | special | jump | call | loop | mask | leave => simpa using hs

theorem Effect.inv (h : Effect i s t) (hs : s.Inv) : t.Inv where
  memory := h.wf hs.memory
  x0 := h.x_zero.trans hs.x0
  br0 := h.br_fixed.1.trans hs.br0
  br15 := h.br_fixed.2.trans hs.br15
  reserved := t.reserved_iff.2 (h.bothHalves reserved_statusKeeps (s.reserved_iff.1 hs.reserved))
  pageSize := h.pageSize hs.pageSize

theorem State.Inv.enter (hs : s.Inv) (k : TrapKind) (v : BitVec 8) (ret : Word) : (s.enter k v ret).Inv where
  memory := by simpa using hs.memory
  x0 := by simpa using hs.x0
  br0 := (s.setBr_br_fixed k.link ret).1.trans hs.br0
  br15 := (s.setBr_br_fixed k.link ret).2.trans hs.br15
  reserved :=
    (State.reserved_iff _).2 (State.bothHalves_enter reserved_statusKeeps (s.reserved_iff.1 hs.reserved) k v ret)
  pageSize := by simpa using hs.pageSize

theorem State.Inv.sample (hs : s.Inv) : s.sample.Inv :=
  ⟨hs.memory, hs.x0, hs.br0, hs.br15, hs.reserved, hs.pageSize⟩

theorem State.Inv.recordCodeMiss (hs : s.Inv) (a : Word) : (s.recordCodeMiss a).Inv := by
  unfold State.recordCodeMiss
  split
  · exact ⟨hs.memory, hs.x0, hs.br0, hs.br15, hs.reserved, hs.pageSize⟩
  · exact hs

theorem freeTlbRegs_pageSize (now : Nat) : (freeTlbRegs now).pageSize.toNat ≤ 4 := by
  simp only [freeTlbRegs, BitVec.toNat_ofNat]; omega

/-- Reset by `rst_i`: the hard-wired cells are 0, SR is reset, and the free page size is a defined one (log entry 20). -/
theorem State.Inv.warmReset (hs : s.Inv) : s.warmReset.Inv where
  memory := by simpa using hs.memory
  x0 := by simp [State.warmReset]
  br0 := by simp [State.warmReset]
  br15 := by simp [State.warmReset]
  reserved := by
    rw [State.reserved_iff]
    exact State.bothHalves_of_append rfl (s.reserved_iff.1 hs.reserved).2 reserved_statusKeeps.reset
  pageSize := freeTlbRegs_pageSize s.now

/-- Settles O56: each effect of a step keeps the invariant. -/
theorem stepKeepsInvariant : Obligations.StepKeepsInvariant := by
  intro s t hs h
  cases step_effect h with
  | reset => exact hs.sample.warmReset
  | interrupt v => exact hs.sample.enter .interrupt v s.pc
  | fetchTrap u v hu =>
    obtain rfl | ⟨a, rfl⟩ := hu
    · exact hs.sample.enter .exception v s.pc
    · exact (hs.sample.recordCodeMiss a).enter .exception v s.pc
  | run i len _ hd he => exact he.inv hs.sample

/-! ### Miss addresses (R61, R433) -/

theorem State.recordCodeMiss_dma (s : State) (a : Word) : (s.recordCodeMiss a).tlbRegs.dma = s.tlbRegs.dma := by
  unfold State.recordCodeMiss; split <;> rfl

theorem State.recordCodeMiss_ima (s : State) (a : Word) (h : s.tlbRegs.ima ≠ 0) :
    (s.recordCodeMiss a).tlbRegs.ima = s.tlbRegs.ima := by
  unfold State.recordCodeMiss; rw [if_neg h]

/-- Settles O58: only a data miss writes DMA and only a failing fetch writes IMA, each a register that holds 0. -/
theorem missAddressesAreKept : Obligations.MissAddressesAreKept := by
  intro s t hrst h hnotlb
  cases step_effect h with
  | reset hr => rw [hrst] at hr; cases hr
  | interrupt v => simp
  | fetchTrap u v hu =>
    rw [State.enter_tlbRegs]
    obtain rfl | ⟨a, rfl⟩ := hu
    · exact ⟨fun _ => rfl, fun _ => rfl⟩
    · exact ⟨fun _ => s.sample.recordCodeMiss_dma a, fun hi => s.sample.recordCodeMiss_ima a hi⟩
  | run i len _ hd he =>
    obtain ⟨-, hregs, hdma, -⟩ := he.tlbKept (hnotlb i len hd)
    exact ⟨hdma, fun _ => by rw [hregs]; rfl⟩

/-! ### MFSPR (R320, R340) -/

/-- From 16 on the high half of the number tells the register file, the low half the register. -/
theorem State.sprRead_of_high (s : State) {n : SprNum} (h : n.extractLsb' 4 4 ≠ 0#4) :
    s.sprRead n =
      if n.extractLsb' 4 4 = 1#4 then s.getBr (n.extractLsb' 0 4)
      else if n.extractLsb' 4 4 = 2#4 then s.getSeg (n.extractLsb' 0 4)
      else 0 := by
  have hne : ∀ m : SprNum, m.extractLsb' 4 4 = 0#4 → n ≠ m := by
    rintro m hm rfl; exact h hm
  unfold State.sprRead
  rw [if_neg (hne 0 rfl), if_neg (hne 1 rfl), if_neg (hne 2 rfl), if_neg (hne 3 rfl), if_neg (hne 4 rfl),
    if_neg (hne 6 rfl)]

theorem State.sprRead_branch (s : State) (r : BReg) : s.sprRead (1#4 ++ r) = s.getBr r := by
  have hhigh : (1#4 ++ r : BitVec 8).extractLsb' 4 4 = 1#4 := BitVec.extractLsb'_append_eq_left
  have hlow : (1#4 ++ r : BitVec 8).extractLsb' 0 4 = r := BitVec.extractLsb'_append_eq_right
  rw [State.sprRead_of_high _ (by rw [hhigh]; decide), if_pos hhigh, hlow]

theorem State.sprRead_segment (s : State) (r : BitVec 4) : s.sprRead (2#4 ++ r) = s.getSeg r := by
  have hhigh : (2#4 ++ r : BitVec 8).extractLsb' 4 4 = 2#4 := BitVec.extractLsb'_append_eq_left
  have hlow : (2#4 ++ r : BitVec 8).extractLsb' 0 4 = r := BitVec.extractLsb'_append_eq_right
  rw [State.sprRead_of_high _ (by rw [hhigh]; decide), if_neg (by rw [hhigh]; decide), if_pos hhigh, hlow]

/-- The numbers that name no special register. -/
def SprUnassigned (n : SprNum) : Prop := n = 5 ∨ (7 ≤ n.toNat ∧ n.toNat ≤ 15) ∨ 48 ≤ n.toNat

theorem State.sprRead_unassigned (s : State) {n : SprNum} (h : SprUnassigned n) : s.sprRead n = 0 := by
  have hn : n ≠ 0 ∧ n ≠ 1 ∧ n ≠ 2 ∧ n ≠ 3 ∧ n ≠ 4 ∧ n ≠ 6 ∧ n.extractLsb' 4 4 ≠ 1#4 ∧ n.extractLsb' 4 4 ≠ 2#4 := by
    unfold SprUnassigned at h; revert n; decide
  obtain ⟨h0, h1, h2, h3, h4, h6, hb, hg⟩ := hn
  unfold State.sprRead
  rw [if_neg h0, if_neg h1, if_neg h2, if_neg h3, if_neg h4, if_neg h6, if_neg hb, if_neg hg]

/-- Settles O43: MFSPR writes what `sprRead` gives, and that is stated for each class of numbers. -/
theorem specialRegistersRead : Obligations.SpecialRegistersRead := by
  intro s p n rt hp
  refine ⟨s.sprRead n, writesX_of_result _ s rt _ 4 (State.predicated_true hp 4 _), ?_, ?_, ?_, ?_, ?_, ?_, ?_, ?_,
    fun h => s.sprRead_unassigned h⟩
  · rintro rfl; rfl
  · rintro rfl; rfl
  · rintro rfl; rfl
  · rintro rfl; rfl
  · rintro rfl r; exact s.pregs_nibble r
  · rintro rfl; exact BitVec.toNat_setWidth_of_le (show 8 ≤ 64 by decide)
  · intro r h; rw [sprNum_of_branch h, s.sprRead_branch]
  · intro r h; rw [sprNum_of_segment h, s.sprRead_segment]

/-! ### Reserved operands (R60, R143, R197, R351) -/

theorem State.bitfield_refused {p : Pred} {mb me : BitVec 6} (hp : s.holds p = true) (h : me.toNat < mb.toNat) (rt : Reg)
    (v : Word) : s.bitfield p rt mb me v = .refused .bitfieldBounds := by
  unfold State.bitfield; rw [State.predicated_true hp, if_pos h]

theorem State.tlbReg_reserved (s : State) {tn : BitVec 4} (h : tn.toNat = 6 ∨ 12 ≤ tn.toNat) (v : Word) :
    s.tlbRegRead tn = none ∧ s.tlbRegWrite tn v = .error .reservedTlbRegister := by
  have htn : tn = 6 ∨ tn = 12 ∨ tn = 13 ∨ tn = 14 ∨ tn = 15 := by clear v; revert tn; decide
  obtain rfl | rfl | rfl | rfl | rfl := htn <;> exact ⟨rfl, rfl⟩

theorem State.tlbRegWrite_pageSize_reserved (s : State) {v : Word} (h : 4 < v.toNat % 8) :
    s.tlbRegWrite 3 v = .error .reservedPageSize :=
  if_neg (by rw [BitVec.toNat_setWidth]; omega)

/-- Settles O49: under a true predicate each of these operands meets its refusal. -/
theorem reservedOperandsAreRefused : Obligations.ReservedOperandsAreRefused := by
  intro s p ra rt r mb me tn hp
  refine ⟨fun h i hi => ?_, fun h => ?_, fun h => ?_⟩
  · simp only [List.mem_cons, List.not_mem_nil, or_false] at hi
    obtain rfl | rfl | rfl | rfl | rfl | rfl := hi <;> exact State.bitfield_refused hp h _ _
  · obtain ⟨hread, hwrite⟩ := s.tlbReg_reserved h (s.getX r)
    exact ⟨(State.predicated_true hp 4 _).trans (by rw [hread]), (State.predicated_true hp 4 _).trans (by rw [hwrite])⟩
  · exact (State.predicated_true hp 4 _).trans (by rw [s.tlbRegWrite_pageSize_reserved h])

/-! ### Predicate conditions and the reset state (R34, R421) -/

/-- Settles O13: each condition is its row of R34, which names the flags by their bits. -/
theorem predicateConditions : Obligations.PredicateConditions := by
  intro s n
  exact ⟨rfl, rfl, rfl, rfl, rfl, rfl, rfl, rfl, rfl, rfl, rfl, rfl, rfl⟩

theorem State.reset_inv : State.reset.Inv where
  memory := rfl
  x0 := by simp [State.reset]
  br0 := by simp [State.reset]
  br15 := by simp [State.reset]
  reserved := by decide
  pageSize := by decide

/-- Settles O55: the values are those of `State.reset`. -/
theorem resetState : Obligations.ResetState :=
  ⟨State.reset_inv, rfl, by decide, by decide, by decide, rfl, rfl, rfl, rfl⟩

end Sys2Proof.Machine
end

section
/-!
PROOFS. Memory (20_memory.md, 44_load_store.md): how addresses are formed and translated, what a data access answers,
what loads and stores leave, and what a fetch finds or stops at.
-/

namespace Sys2Proof.Machine

variable {s t : State} {i : Instr}

/-! ### Segmentation (R78 to R81) -/

/-- Segment addition in numbers: the offset in the block of 4096 bytes passes, the sum above it wraps (R80). -/
theorem addSegment_toNat (seg a : Word) :
    (addSegment seg a).toNat =
      (a.toNat / 4096 % 2 ^ 48 + seg.toNat / 4096) % 2 ^ 52 * 4096 + a.toNat % 4096 := by
  have hlow : (a.extractLsb' 0 12).toNat = a.toNat % 4096 := by simp
  have hhigh : ((a.extractLsb' 12 48).setWidth 52 + seg.extractLsb' 12 52).toNat =
      (a.toNat / 4096 % 2 ^ 48 + seg.toNat / 4096) % 2 ^ 52 := by
    simp only [BitVec.toNat_add, BitVec.toNat_setWidth, BitVec.extractLsb'_toNat, Nat.shiftRight_eq_div_pow]
    omega
  unfold addSegment
  rw [BitVec.toNat_append, ← Nat.shiftLeft_add_eq_or_of_lt (BitVec.isLt _), Nat.shiftLeft_eq, hlow, hhigh]

/-- The top nibble of an address, as a number. -/
theorem topNibble_eq (a : Word) : a.extractLsb' 60 4 = BitVec.ofNat 4 (a.toNat / 2 ^ 60) := by
  apply BitVec.eq_of_toNat_eq
  rw [BitVec.extractLsb'_toNat, Nat.shiftRight_eq_div_pow, BitVec.toNat_ofNat]

theorem topNibble_eq_fifteen_iff (a : Word) : a.extractLsb' 60 4 = 15#4 ↔ a.toNat / 2 ^ 60 = 15 := by
  have ha := a.isLt
  rw [topNibble_eq, ← BitVec.toNat_inj, BitVec.toNat_ofNat, BitVec.toNat_ofNat]
  omega

/-- Settles O41: the sum is that of `addSegment`, and the top nibble picks the register. -/
theorem addressFormation : Obligations.AddressFormation := by
  intro s a
  refine ⟨fun hseg => ⟨?_, fun htop => ?_, fun htop => ?_⟩, fun hseg => ⟨?_, ?_⟩⟩
  · unfold State.dataAddress
    rw [if_pos hseg, addSegment_toNat, topNibble_eq]
  · exact if_pos ((topNibble_eq_fifteen_iff a).2 htop)
  · unfold State.codeAddress
    rw [if_neg fun h => htop ((topNibble_eq_fifteen_iff a).1 h), if_pos hseg, addSegment_toNat]
  · exact if_neg (by rw [hseg]; decide)
  · unfold State.codeAddress
    rw [hseg]; exact ite_self a

/-! ### Translation (R84 to R88) -/

theorem State.tlbHits_nodup (s : State) (asid : BitVec 8) (vpn : BitVec 52) : (s.tlbHits asid vpn).Nodup :=
  (List.nodup_finRange 64).filter _

theorem State.lookup_off (h : s.tlbEnabled = false) (sa : Word) : s.lookup sa = .hit sa none :=
  if_neg (by rw [h]; decide)

theorem State.lookup_none (hon : s.tlbEnabled = true) {sa : Word} (h : ∀ j, j ∉ s.tlbHits s.asid (pageOf sa)) :
    s.lookup sa = .miss := by
  have hnil : s.tlbHits s.asid (pageOf sa) = [] := List.eq_nil_iff_forall_not_mem.2 h
  unfold State.lookup
  rw [if_pos hon, hnil]

theorem State.lookup_single (hon : s.tlbEnabled = true) {sa : Word} {j : Fin 64}
    (hj : j ∈ s.tlbHits s.asid (pageOf sa)) (honly : ∀ k ∈ s.tlbHits s.asid (pageOf sa), k = j) :
    s.lookup sa = .hit ((s.tlb[j.val]'j.isLt).physical s.tlbRegs.pageSize sa) (some j) := by
  have hone : s.tlbHits s.asid (pageOf sa) = [j] :=
    List.perm_singleton.1 ((List.perm_ext_iff_of_nodup (s.tlbHits_nodup _ _) (List.nodup_singleton j)).2 fun k =>
      ⟨fun hk => List.mem_singleton.2 (honly k hk), fun hk => List.mem_singleton.1 hk ▸ hj⟩)
  unfold State.lookup
  rw [if_pos hon, hone]

theorem State.lookup_several (hon : s.tlbEnabled = true) {sa : Word} {j k : Fin 64}
    (hj : j ∈ s.tlbHits s.asid (pageOf sa)) (hk : k ∈ s.tlbHits s.asid (pageOf sa)) (hne : j ≠ k) :
    s.lookup sa = .multiple := by
  unfold State.lookup
  rw [if_pos hon]
  match hl : s.tlbHits s.asid (pageOf sa) with
  | [] => rw [hl] at hj; exact absurd hj List.not_mem_nil
  | [a] =>
    rw [hl, List.mem_singleton] at hj hk
    exact absurd (hj.trans hk.symm) hne
  | _ :: _ :: _ => rfl

/-- One bit of the page number of an address (R56). -/
theorem pageOf_bit (sa : Word) {k : Nat} (hk : k < 52) : (pageOf sa).getLsbD k = sa.getLsbD (k + 12) := by
  unfold pageOf
  rw [BitVec.getLsbD_extractLsb', decide_eq_true hk, Bool.true_and, Nat.add_comm]

/-- Which entries match an address, in terms of its own bits (R86). -/
theorem mem_tlbHits_pageOf_iff (s : State) (sa : Word) (j : Fin 64) :
    j ∈ s.tlbHits s.asid (pageOf sa) ↔ (s.tlb[j.val]'j.isLt).v = true ∧
      ((s.tlb[j.val]'j.isLt).g = true ∨ (s.tlb[j.val]'j.isLt).asid = s.asid) ∧
      ∀ k < 64, 12 + 2 * s.tlbRegs.pageSize.toNat ≤ k →
        (s.tlb[j.val]'j.isLt).vpn.getLsbD (k - 12) = sa.getLsbD k := by
  rw [mem_tlbHits_iff]
  refine and_congr_right fun _ => and_congr_right fun _ => ⟨fun h k hk hle => ?_, fun h k hk hle => ?_⟩
  · rw [h (k - 12) (by omega) (by omega), pageOf_bit _ (by omega), Nat.sub_add_cancel (by omega)]
  · rw [pageOf_bit _ hk, ← h (k + 12) (by omega) (by omega), Nat.add_sub_cancel]

/-- One bit of a translated address: the address's own below the page offset's end, the entry's above (R87). -/
theorem TlbEntry.physical_bit (e : TlbEntry) (n : BitVec 3) (sa : Word) {k : Nat} (hk : k < 64) :
    (e.physical n sa).getLsbD k = if k < 12 + 2 * n.toNat then sa.getLsbD k else e.ppn.getLsbD (k - 12) := by
  unfold TlbEntry.physical
  rw [BitVec.getLsbD_append]
  by_cases h12 : k < 12
  · simp [h12, show k < 12 + 2 * n.toNat by omega]
  · have hpage : (sa.extractLsb' 12 52).getLsbD (k - 12) = sa.getLsbD k := by
      rw [← pageOf, pageOf_bit _ (by omega), Nat.sub_add_cancel (by omega)]
    have hmask : decide (k - 12 < 2 * n.toNat) = decide (k < 12 + 2 * n.toNat) := decide_eq_decide.2 (by omega)
    rw [if_neg h12, BitVec.getLsbD_or, BitVec.getLsbD_and, BitVec.getLsbD_and, BitVec.getLsbD_not,
      pageMask_bit n _ (by omega), hpage, hmask]
    by_cases hoff : k < 12 + 2 * n.toNat <;> simp [hoff, show k - 12 < 52 by omega]

/-- Settles O42: the entries that match are those of `tlbHits`, and `lookup` answers by their number. -/
theorem translationByTheTlb : Obligations.TranslationByTheTlb := by
  intro s sa _ offset e hit
  have hmem : ∀ j, j ∈ s.tlbHits s.asid (pageOf sa) ↔ hit j := mem_tlbHits_pageOf_iff s sa
  refine ⟨fun hoff => State.lookup_off hoff sa, fun hon =>
    ⟨fun hnone => ?_, fun i j hi hj hne => ?_, fun i hi honly => ?_⟩⟩
  · exact State.lookup_none hon fun j hj => hnone j ((hmem j).1 hj)
  · exact State.lookup_several hon ((hmem i).2 hi) ((hmem j).2 hj) hne
  · exact ⟨_, State.lookup_single hon ((hmem i).2 hi) fun j hj => honly j ((hmem j).1 hj),
      fun k hk => TlbEntry.physical_bit _ _ sa hk⟩

/-! ### What a data access answers (R76, R86, R88, R100, R101) -/

section
variable {write : Bool} {a pa : Word} {n : Nat} {e : Option (Fin 64)}

theorem State.access_misaligned (ha : a.toNat % n ≠ 0) : s.access write a n = .fault .misaligned := if_pos ha

theorem State.access_multiple (ha : a.toNat % n = 0) (hl : s.lookup (s.dataAddress a) = .multiple) :
    s.access write a n = .fault .tlbMultipleMatch := by
  unfold State.access
  rw [if_neg (not_not.2 ha), hl]

theorem State.access_miss (ha : a.toNat % n = 0) (hl : s.lookup (s.dataAddress a) = .miss) :
    s.access write a n = .trap vecDtlbMiss (s.recordDataMiss (s.dataAddress a)) := by
  unfold State.access
  rw [if_neg (not_not.2 ha), hl]

theorem State.access_failing (ha : a.toNat % n = 0) (hl : s.lookup (s.dataAddress a) = .hit pa e)
    (hb : s.busError pa n = true) : s.access write a n = .trap vecBusData (s.touched write e) := by
  unfold State.access
  rw [if_neg (not_not.2 ha), hl]
  dsimp only
  rw [if_pos hb]
  cases write <;> cases e <;> rfl

theorem State.busError_of_dataFails {k : Nat} (hk : k < n) (hf : s.dataFails (pa + BitVec.ofNat 64 k) = true) :
    s.busError pa n = true := by
  by_contra hb
  rw [Bool.not_eq_true, State.busError_eq_false] at hb
  rw [hb k hk] at hf
  cases hf

end

/-- The TLB after a translation, in the words of the claims. -/
theorem State.touched_tlb (s : State) (w : Bool) (e : Option (Fin 64)) :
    (s.touched w e).tlb = if w then dirtied s e else s.tlb := by
  cases w <;> cases e <;> rfl

/-- A read marks no entry. -/
@[simp] theorem State.touched_read (s : State) (e : Option (Fin 64)) : s.touched false e = s := rfl

theorem State.recordDataMiss_eq (s : State) (a : Word) :
    s.recordDataMiss a =
      { s with tlbRegs := { s.tlbRegs with dma := if s.tlbRegs.dma = 0 then a else s.tlbRegs.dma } } := by
  unfold State.recordDataMiss
  split <;> rfl

/-! ### Going on after a data access (R277, R377) -/

section
variable {k : Word → State → Out} {a : Word} {n : Nat}

/-- A read goes on with the bytes that the bus answers. -/
theorem State.afterAccess_memRead :
    s.afterAccess (s.memRead a n) k = s.afterAccess (s.access false a n) fun pa t => k (t.busRead pa n) t := by
  unfold State.memRead
  cases s.access false a n <;> rfl

/-- A write goes on in the state with the bytes stored. -/
theorem State.afterAccess_memWrite {k : Unit → State → Out} {v : Word} :
    s.afterAccess (s.memWrite a n v) k = s.afterAccess (s.access true a n) fun pa t => k () (t.busWrite pa v n) := by
  unfold State.memWrite
  cases s.access true a n <;> rfl

/-- CAS goes on with the old word, and with the new one stored if the old one was expected (R306). -/
theorem State.afterAccess_memSwap {x y : Word} :
    s.afterAccess (s.memSwap a x y) k = s.afterAccess (s.access true a 8) fun pa t =>
      k (t.busRead pa 8) (if t.busRead pa 8 = x then t.busWrite pa y 8 else t) := by
  unfold State.memSwap
  cases s.access true a 8 with
  | ok pa t =>
    by_cases h : t.busRead pa 8 = x
    · simp only [State.afterAccess, if_pos h]
    · simp only [State.afterAccess, if_neg h]
  | trap v t => rfl
  | fault r => rfl

end

/-- An instruction with a single data access makes that access and goes on after it. -/
theorem exec_of_dataAccess {d : DataAccess} (h : dataAccess s i = some d) (hp : s.holds d.pred = true) :
    ∃ k, exec i s = s.afterAccess (s.access d.write d.address d.bytes) k := by
  unfold dataAccess at h
  split at h
  · next f hf =>
    cases h
    exact ⟨_, (exec_of_loadForm s i f hf).1.trans ((State.predicated_true hp _ _).trans State.afterAccess_memRead)⟩
  · next f hf _ =>
    cases h
    exact ⟨_, (exec_of_storeForm s i f hf).1.trans ((State.predicated_true hp _ _).trans State.afterAccess_memWrite)⟩
  · next f hf _ _ =>
    cases h
    exact ⟨_, (exec_of_lwsForm s i f hf).trans ((State.predicated_true hp _ _).trans State.afterAccess_memRead)⟩
  · next f hf _ _ _ =>
    cases h
    exact ⟨_, (exec_of_casForm s i f hf).trans ((State.predicated_true hp _ _).trans State.afterAccess_memSwap)⟩
  · cases h

theorem exec_of_access_trap {d : DataAccess} {v : BitVec 8} (h : dataAccess s i = some d) (hp : s.holds d.pred = true)
    (ha : s.access d.write d.address d.bytes = .trap v t) : exec i s = .next (t.enter .exception v s.pc) := by
  obtain ⟨k, hk⟩ := exec_of_dataAccess h hp
  rw [hk, ha]; rfl

theorem exec_of_access_fault {d : DataAccess} {r : Fault} (h : dataAccess s i = some d) (hp : s.holds d.pred = true)
    (ha : s.access d.write d.address d.bytes = .fault r) : exec i s = .fault r := by
  obtain ⟨k, hk⟩ := exec_of_dataAccess h hp
  rw [hk, ha]; rfl

/-- Settles O39: the access answers a trap, and the instruction takes it in the state that the access names. -/
theorem failingDataAccessTraps : Obligations.FailingDataAccessTraps := by
  intro s i a ha hp halign
  refine ⟨fun hmiss => ⟨_, exec_of_access_trap ha hp (State.access_miss halign hmiss), ?_⟩,
    fun pa e k hhit hk hfail => ⟨_, exec_of_access_trap ha hp
      (State.access_failing halign hhit (State.busError_of_dataFails hk hfail)), ?_⟩⟩
  · rw [State.recordDataMiss_eq]
    exact enter_trapFrom _ .exception _ _
  · rw [State.touched_frame, State.touched_tlb]
    exact enter_trapFrom _ .exception _ _

/-! ### String stores that stop (R76, R86, R300, R301) -/

theorem State.fill_of_access_fault {a : Word} {n : Nat} {r : Fault} (h : s.access true a n = .fault r) (v : Word)
    (c : Nat) : s.fill a v n (c + 1) = .fault r := by
  unfold State.fill State.memWrite
  rw [h]

theorem State.stringStore_of_fill_fault {p : Pred} {ra rb : Reg} {n : Nat} {r : Fault} (hp : s.holds p = true)
    (h : s.fill (s.getX ra) (s.getX rb) n s.lc.toNat = .fault r) : s.stringStore n p ra rb = .fault r := by
  unfold State.stringStore
  rw [State.predicated_true hp, h]; rfl

theorem exec_of_stringStore {p : Pred} {ra rb : Reg} {n : Nat}
    (hi : (n = 1 ∧ i = .stsb p ra rb) ∨ (n = 8 ∧ i = .stsw p ra rb)) : exec i s = s.stringStore n p ra rb := by
  obtain ⟨rfl, rfl⟩ | ⟨rfl, rfl⟩ := hi <;> rfl

/-- The loop gets to the first element that stops, and that element sees the translations and segments of the start. -/
theorem State.fill_multiple {a v : Word} {n m c : Nat} {pa : Nat → Word} {e : Nat → Option (Fin 64)}
    (hr : ElementsReach s a n m pa e) (halign : (a + BitVec.ofNat 64 (n * m)).toNat % n = 0)
    (hl : s.lookup (s.dataAddress (a + BitVec.ofNat 64 (n * m))) = .multiple) :
    s.fill a v n (m + (c + 1)) = .fault .tlbMultipleMatch := by
  obtain ⟨u, hu, hframe, -⟩ := s.fill_of_reaches s (.refl s) v a n m (c + 1) pa e fun k hk => (hr k hk).1
  rw [← hframe.dataAddress, ← hframe.lookup] at hl
  rw [hu, State.fill_of_access_fault (State.access_multiple halign hl)]

/-- Settles O40: a single access faults by itself; the loop of a string store faults at its first bad element. -/
theorem unpredictableDataAccessFaults : Obligations.UnpredictableDataAccessFaults := by
  refine ⟨fun s i a ha hp => ⟨fun hne => ?_, fun halign hl => ?_⟩, fun s p ra rb hp hlc hne => ?_,
    fun s p ra rb n m i pa e hi hp hm hr => ?_⟩
  · exact exec_of_access_fault ha hp (State.access_misaligned hne)
  · exact exec_of_access_fault ha hp (State.access_multiple halign hl)
  · have hcount : s.lc.toNat = s.lc.toNat - 1 + 1 := by
      have : s.lc.toNat ≠ 0 := fun h => hlc (BitVec.eq_of_toNat_eq h)
      omega
    refine State.stringStore_of_fill_fault hp ?_
    rw [hcount]
    exact State.fill_of_access_fault (State.access_misaligned hne) _ _
  · intro a halign hl
    rw [exec_of_stringStore hi]
    refine State.stringStore_of_fill_fault hp ?_
    rw [show s.lc.toNat = m + (s.lc.toNat - m - 1 + 1) by omega]
    exact State.fill_multiple hr halign hl

/-! ### Loads (R261 to R283) -/

/-- Where the platform has memory a load finds the byte of memory (R92). -/
theorem State.busByte_memory {pa : Word} (h : s.kindAt pa = .memory) : s.busByte pa = Memory.read s.mem pa.toNat := by
  unfold State.busByte
  rw [h]

/-- Extension in numbers: a word of `8 n` bits, its sign bit copied up or not (R261). -/
theorem extendLoaded_eq_widened (signed : Bool) {n : Nat} {v : Word} (h : v.toNat < 256 ^ n) :
    extendLoaded ⟨n, signed⟩ v = widened signed n v.toNat := by
  have hpow : 256 ^ n = 2 ^ (8 * n) := (pow_mul 2 8 n).symm
  have hlow : (v.setWidth (8 * n)).toNat = v.toNat := by rw [BitVec.toNat_setWidth, ← hpow, Nat.mod_eq_of_lt h]
  have hzero : (v.setWidth (8 * n)).setWidth 64 = BitVec.ofNat 64 v.toNat := by
    apply BitVec.eq_of_toNat_eq
    rw [BitVec.toNat_setWidth, hlow, BitVec.toNat_ofNat]
  cases signed with
  | false => exact hzero
  | true =>
    have hsign : (v.setWidth (8 * n)).signExtend 64 = BitVec.ofInt 64 (v.setWidth (8 * n)).toInt := rfl
    have hint := BitVec.toInt_eq_toNat_cond (v.setWidth (8 * n))
    rw [hlow, ← hpow] at hint
    unfold extendLoaded widened
    rw [if_pos rfl, hsign, hint, Bool.true_and]
    by_cases hbig : 256 ^ n ≤ 2 * v.toNat
    · rw [if_neg (not_lt.2 hbig), decide_eq_true hbig, if_pos rfl]
      push_cast; rfl
    · rw [if_pos (not_le.1 hbig), decide_eq_false hbig, if_neg Bool.false_ne_true, BitVec.ofInt_natCast]

/-- A load that reaches the bus ends with its bytes as the result. -/
theorem State.load_of_reaches {k : LoadKind} {p : Pred} {a pa : Word} {e : Option (Fin 64)} (hp : s.holds p = true)
    (hr : Reaches s a k.bytes pa e) (rt : Reg) (len : Nat) :
    s.load k p a rt len = s.result rt len (extendLoaded k (s.busRead pa k.bytes)) := by
  unfold State.load
  rw [State.predicated_true hp, State.afterAccess_memRead, access_of_reaches _ _ _ _ _ _ hr]; rfl

/-- Settles O32: the load ends with a register result, and its value is the little-endian number widened. -/
theorem loadsFillTheTarget : Obligations.LoadsFillTheTarget := by
  intro s i f pa e hf hp hr
  obtain ⟨hexec, hbytes⟩ := exec_of_loadForm s i f hf
  obtain ⟨hread, hlt⟩ := busRead_littleEndian s pa f.bytes (by omega)
  refine ⟨writesX_of_result i s f.target _ f.length ?_, fun a ha => State.busByte_memory ha⟩
  rw [hexec, State.load_of_reaches hp hr, extendLoaded_eq_widened f.signed (hread ▸ hlt), hread]

/-! ### Stores (R261, R285 to R294) -/

/-- A store that reaches the bus ends with its bytes stored through the entry it used. -/
theorem State.store_of_reaches {p : Pred} {a pa : Word} {n : Nat} {e : Option (Fin 64)} (hp : s.holds p = true)
    (hr : Reaches s a n pa e) (v : Word) (len : Nat) :
    s.store n p a v len = .next (((s.touched true e).busWrite pa v n).advance len) := by
  unfold State.store
  rw [State.predicated_true hp, State.afterAccess_memWrite, access_of_reaches _ _ _ _ _ _ hr]; rfl

/-- What a bus write leaves, in the words of the claims (R73). -/
theorem storedAt_of_busWrite (hw : Memory.wf s.mem = true) (e : Option (Fin 64)) (pa v : Word) {n : Nat} (hn : n ≤ 8) :
    StoredAt s ((s.touched true e).busWrite pa v n) pa n v := by
  constructor
  · intro k hk hmem
    exact State.busWrite_same _ pa v n k hn hk (by rwa [State.touched_mem]) (by rwa [State.touched_kindAt])
  · intro a ha
    rw [State.busWrite_other _ pa v n a fun k hk hmem => ha k hk (by rwa [State.touched_kindAt] at hmem),
      State.touched_mem]

/-- Settles O33: the store ends in a bus write, which is the bytes stored, and the D bit of the entry. -/
theorem storesWriteTheirBytes : Obligations.StoresWriteTheirBytes := by
  intro s i f pa e hinv hf hp hr
  obtain ⟨hexec, hbytes⟩ := exec_of_storeForm s i f hf
  refine ⟨_, hexec.trans (State.store_of_reaches hp hr _ _), storedAt_of_busWrite hinv.memory e pa _ hbytes, ?_, ?_⟩
  · rw [State.advance_tlb, State.busWrite_tlb, State.touched_tlb, if_pos rfl]
  · rw [State.busWrite_frame, State.touched_frame]; rfl

/-! ### What a fetch finds (R99) -/

/-- The bytes of a log at an address are rows of it. -/
theorem mem_of_mem_staleBytes {log : List Host.Cell} {a : Nat} {b : Byte} (h : b ∈ staleBytes log a) : (a, b) ∈ log := by
  induction log with
  | nil => cases h
  | cons c r ih =>
    unfold staleBytes at h
    split at h
    · next hc =>
      obtain rfl | h := List.mem_cons.1 h
      · subst hc; exact List.mem_cons_self
      · exact List.mem_cons_of_mem _ (ih h)
    · exact List.mem_cons_of_mem _ (ih h)

/-- A draw among a byte and the bytes of a list is one of them. -/
theorem getD_mod_mem_cons (b : Byte) (l : List Byte) (draw : Nat) :
    (b :: l).getD (draw % (l.length + 1)) b ∈ b :: l := by
  have hlt : draw % (l.length + 1) < (b :: l).length := Nat.mod_lt _ (Nat.succ_pos _)
  rw [List.getD_eq_getElem _ _ hlt]
  exact List.getElem_mem hlt

/-- A fetch of a byte of memory finds that byte or one that the logs of replaced bytes hold for it. -/
theorem State.codeByte_memory {pa : Word} (h : s.kindAt pa = .memory) :
    s.codeByte pa = Memory.read s.mem pa.toNat ∨
      s.codeByte pa ∈ staleBytes (s.lag.overwritten ++ s.lag.drained) pa.toNat := by
  unfold State.codeByte
  rw [h]
  dsimp only
  split
  · exact .inl rfl
  · exact List.mem_cons.1 (getD_mod_mem_cons _ _ _)

/-- With nothing replaced that still waits, a fetch of a byte of memory finds that byte. -/
theorem State.codeByte_settled {pa : Word} (h : s.kindAt pa = .memory) (hover : s.lag.overwritten = [])
    (hdrained : s.lag.drained = []) : s.codeByte pa = Memory.read s.mem pa.toNat := by
  obtain hnow | hold := State.codeByte_memory h
  · exact hnow
  · rw [hover, hdrained] at hold
    cases hold

theorem exec_br_taken {q : Pred} (h : s.holds q = true) (disp : BitVec 12) :
    exec (.br q disp) s = .next (s.jump (s.pc + brDisp disp)) :=
  State.predicated_true h 3 _

/-- Settles O12: a fetched byte is memory's or a replaced one; MEMSB and a jump leave no replaced one. -/
theorem codeIsFreshAfterBarrierAndBranch : Obligations.CodeIsFreshAfterBarrierAndBranch := by
  refine ⟨fun s pa h => (State.codeByte_memory h).imp_right mem_of_mem_staleBytes, ?_⟩
  intro s u t p q disp pa hu hq ht hk
  rw [exec_memsb] at hu
  cases hu
  rw [exec_br_taken hq] at ht
  cases ht
  exact State.codeByte_settled hk rfl rfl

/-! ### What a fetch stops at (R88, R100, R377, R390) -/

theorem State.fetchByte_miss {a : Word} (h : s.lookup (s.codeAddress a) = .miss) :
    s.fetchByte a = .error (.trap vecItlbMiss (s.recordCodeMiss (s.codeAddress a))) := by
  unfold State.fetchByte
  rw [h]

theorem State.fetchByte_multiple {a : Word} (h : s.lookup (s.codeAddress a) = .multiple) :
    s.fetchByte a = .error (.fault .tlbMultipleMatch) := by
  unfold State.fetchByte
  rw [h]

theorem State.fetchByte_failing {a pa : Word} {e : Option (Fin 64)} (h : s.lookup (s.codeAddress a) = .hit pa e)
    (hf : s.codeFails pa = true) : s.fetchByte a = .error (.trap vecBusFetch s) := by
  unfold State.fetchByte
  rw [h]
  exact if_pos hf

/-- A fetch of several bytes gives those before the first that stops. -/
theorem State.fetchBytes_of_stop {bs : List Byte} {a : Word} {n : Nat} {x : FetchStop}
    (hok : ∀ (k : Nat) (h : k < bs.length), s.fetchByte (a + BitVec.ofNat 64 k) = .ok (bs[k]'h))
    (hstop : s.fetchByte (a + BitVec.ofNat 64 bs.length) = .error x) (hn : bs.length < n) :
    s.fetchBytes a n = (bs, some x) := by
  induction bs generalizing a n with
  | nil =>
    obtain ⟨n, rfl⟩ := Nat.exists_eq_add_one_of_ne_zero (Nat.ne_of_gt hn)
    rw [List.length_nil, BitVec.add_zero] at hstop
    rw [State.fetchBytes, hstop]
  | cons b bs ih =>
    obtain ⟨n, rfl⟩ := Nat.exists_eq_add_one_of_ne_zero (Nat.ne_of_gt (Nat.zero_lt_of_lt hn))
    have hnext : ∀ k, a + 1 + BitVec.ofNat 64 k = a + BitVec.ofNat 64 (k + 1) := by
      intro k; rw [BitVec.ofNat_add, BitVec.add_assoc, BitVec.add_comm 1]; rfl
    have hfirst : s.fetchByte a = .ok b := by simpa using hok 0 (Nat.succ_pos _)
    have hrest : s.fetchBytes (a + 1) n = (bs, some x) := by
      refine ih (fun k hk => ?_) ?_ (Nat.lt_of_succ_lt_succ hn)
      · rw [hnext]; exact hok (k + 1) (Nat.succ_lt_succ hk)
      · rw [hnext]; exact hstop
    rw [State.fetchBytes, hfirst, hrest]

/-- A quiet step whose bytes end before they are an instruction ends as the byte that stopped says. -/
theorem step_of_fetch_stop {bs : List Byte} {x : FetchStop} (hq : s.Quiet) (hlen : bs.length < maxBytes)
    (hd : decode bs = .truncated)
    (hok : ∀ (k : Nat) (h : k < bs.length), s.sample.fetchByte (s.pc + BitVec.ofNat 64 k) = .ok (bs[k]'h))
    (hstop : s.sample.fetchByte (s.pc + BitVec.ofNat 64 bs.length) = .error x) :
    step s = s.sample.stopFetch (some x) := by
  have hbytes : s.sample.fetchBytes s.sample.pc maxBytes = (bs, some x) := State.fetchBytes_of_stop hok hstop hlen
  have hfetch : s.sample.fetch = .stop (s.sample.stopFetch (some x)) := by
    simp only [State.fetch, hbytes, hd]
  simp only [step, State.boundary_of_quiet hq, hfetch]

theorem State.recordCodeMiss_eq (s : State) (a : Word) :
    s.recordCodeMiss a =
      { s with tlbRegs := { s.tlbRegs with ima := if s.tlbRegs.ima = 0 then a else s.tlbRegs.ima } } := by
  unfold State.recordCodeMiss
  split <;> rfl

/-- Settles O10: the byte that stops is fetched with the translation and segments of the state before its inputs. -/
theorem failingFetchTraps : Obligations.FailingFetchTraps := by
  intro s bs hq hlen hd hok sa
  have hstep : ∀ {x}, s.sample.fetchByte (s.pc + BitVec.ofNat 64 bs.length) = .error x →
      step s = s.sample.stopFetch (some x) := fun hx => step_of_fetch_stop hq hlen hd hok hx
  refine ⟨fun hmiss => ⟨_, hstep (State.fetchByte_miss hmiss), ?_⟩,
    fun pa e hhit hf => ⟨_, hstep (State.fetchByte_failing hhit hf), ?_⟩,
    fun hmult => hstep (State.fetchByte_multiple hmult)⟩
  · rw [State.recordCodeMiss_eq]
    exact enter_trapFrom _ .exception _ _
  · exact enter_trapFrom s.sample .exception _ _

end Sys2Proof.Machine
end

section
/-!
PROOFS. What the decoder turns down (30_encoding.md R112, R119, R128, R142, R143): the reserved first bytes, alone and
behind a prefix of each length, and the opcodes and sub-codes that no row uses.
-/

namespace Sys2Proof

/-! ### Nibbles as numbers -/

theorem loNibble_toNat (b : Byte) : (loNibble b).toNat = b.toNat % 16 := by
  unfold loNibble
  rw [BitVec.extractLsb'_toNat, Nat.shiftRight_zero]

theorem hiNibble_toNat (b : Byte) : (hiNibble b).toNat = b.toNat / 16 := by
  have hb := b.isLt
  unfold hiNibble
  rw [BitVec.extractLsb'_toNat, Nat.shiftRight_eq_div_pow]
  omega

/-! ### Reserved first bytes (R111, R112) -/

/-- A low nibble that no condition has as its code makes the byte reserved, whatever the predicate register is. -/
theorem lead_of_ofCode_none (n : BitVec 4) {c : BitVec 4} (h : Cond.ofCode c = none) :
    lead (n ++ c) = .reserved .condition := by
  have hne {b : Byte} (hb : Cond.ofCode (loNibble b) ≠ none) : n ++ c ≠ b := by
    rintro rfl
    exact hb (by rw [loNibble_append, h])
  have hc : c ≠ 0#4 := by
    rintro rfl
    cases h
  unfold lead
  rw [if_neg (hne (by decide)), if_neg (hne (by decide)), if_neg (hne (by decide)), loNibble_append, if_neg hc, h]

/-- Low nibble 0 above the prefixes: the bytes 90h to F0h. -/
theorem lead_above_prefixes {n : BitVec 4} (h : 9 ≤ n.toNat) : lead (n ++ 0#4) = .reserved .predicateByte := by
  revert n; decide

/-- Low nibble 0 up to 80h: BRK, NOP and the prefixes. -/
theorem lead_upTo_prefixes {n : BitVec 4} (h : n.toNat ≤ 8) :
    lead (n ++ 0#4) = .brk ∨ lead (n ++ 0#4) = .nop ∨ lead (n ++ 0#4) = .prefixed n.toNat := by
  revert n; decide

theorem decode_reserved_lead {b : Byte} {e : Reserved} (h : lead b = .reserved e) (r : List Byte) :
    decode (b :: r) = .reserved e := by
  simp only [decode, h]

theorem decodeExt_reserved_lead {b : Byte} {e : Reserved} (h : lead b = .reserved e) (r : List Byte) :
    decodeExt (b :: r) = .reserved e := by
  simp only [decodeExt, h]

/-- BRK, NOP and a second prefix take no prefix before them (R119). -/
theorem decodeExt_upTo_prefixes {n : BitVec 4} (h : n.toNat ≤ 8) (r : List Byte) :
    decodeExt ((n ++ 0#4) :: r) = .reserved .misplacedPrefix := by
  obtain hl | hl | hl := lead_upTo_prefixes h <;> simp only [decodeExt, hl]

/-! ### SYS and INT (R128) -/

theorem fmtSys_of_ne {fixed a : Byte} (h : a ≠ fixed) (f : BitVec 8 → Instr) (c : Byte) (r : List Byte) :
    fmtSys fixed f (a :: c :: r) = .reserved .sysForm := if_neg h

/-! ### Behind a prefix (R114, R116, R119) -/

theorem lead_prefixByte {m : Nat} (h2 : 2 ≤ m) (h8 : m ≤ 8) : lead (BitVec.ofNat 8 (16 * m)) = .prefixed m := by
  interval_cases m <;> rfl

/-- The immediate bytes that a prefix's length asks for, and what stands behind them. -/
theorem decodePrefixed_bytes : ∀ k : List Byte, 1 ≤ k.length → k.length ≤ 7 →
    ∃ f : Ext → Instr, ∀ bs, decodePrefixed (k.length + 1) (k ++ bs) = withPrefix (k.length + 1) f (decodeExt bs)
  | [a], _, _ => ⟨.imm16 a, fun _ => rfl⟩
  | [a, b], _, _ => ⟨.imm24 (b ++ a), fun _ => rfl⟩
  | [a, b, c], _, _ => ⟨.imm32 (c ++ b ++ a), fun _ => rfl⟩
  | [a, b, c, d], _, _ => ⟨.imm40 (d ++ c ++ b ++ a), fun _ => rfl⟩
  | [a, b, c, d, e], _, _ => ⟨.imm48 (e ++ d ++ c ++ b ++ a), fun _ => rfl⟩
  | [a, b, c, d, e, f], _, _ => ⟨.imm56 (f ++ e ++ d ++ c ++ b ++ a), fun _ => rfl⟩
  | [a, b, c, d, e, f, g], _, _ => ⟨.imm64 (g ++ f ++ e ++ d ++ c ++ b ++ a), fun _ => rfl⟩
  | [], h, _ => absurd h (by decide)
  | _ :: _ :: _ :: _ :: _ :: _ :: _ :: _ :: _, _, h => absurd h (by simp only [List.length_cons]; omega)

theorem decode_prefix_reserved {m : Nat} {k bs : List Byte} {e : Reserved} (h2 : 2 ≤ m) (h8 : m ≤ 8)
    (hk : k.length + 1 = m) (h : decodeExt bs = .reserved e) :
    decode (BitVec.ofNat 8 (16 * m) :: (k ++ bs)) = .reserved e := by
  obtain ⟨f, hf⟩ := decodePrefixed_bytes k (by omega) (by omega)
  rw [hk] at hf
  simp only [decode, lead_prefixByte h2 h8, hf, h, withPrefix]

/-- The opcodes 40h to FFh that R119 lists. -/
abbrev TakesPrefix (op : Byte) : Prop :=
  op.toNat ∈ [0x48, 0x49, 0x4C, 0x4D, 0x53, 0x54, 0x55, 0x6B, 0x6C, 0x6D, 0x6E, 0x6F, 0x9D, 0x80, 0x81, 0x82, 0x83,
    0x84, 0x85, 0x86, 0x8E, 0x90, 0x91, 0x92, 0x93, 0x9E, 0x97, 0xA2, 0xD0, 0xD1, 0xD2, 0xD3]

/-- Each row of `decodeExtOpcode` is in R119's list, so an opcode outside it meets the last arm. -/
theorem decodeExtOpcode_misplaced {op : Byte} (h : ¬ TakesPrefix op) (p : Pred) (r : List Byte) :
    decodeExtOpcode p op r = .reserved .misplacedPrefix := by
  unfold decodeExtOpcode
  split
  case h_33 => rfl
  all_goals exact absurd (by decide) h

theorem decodeExtOrdinary_opcode {op : Byte} (h : op.toNat / 16 ≠ 2) (p : Pred) (r : List Byte) :
    decodeExtOrdinary p (op :: r) = decodeExtOpcode p op r := by
  have hhi : hiNibble op ≠ 2#4 := fun e => h (by rw [← hiNibble_toNat, e]; rfl)
  rw [decodeExtOrdinary]
  split
  · next e => exact absurd e hhi
  · rfl

/-- Settles O4: the first byte is reserved alone as behind a prefix; an opcode of no row behind a prefix meets the last
arm of `decodeExtOpcode`. -/
theorem reservedEncodingsAreRejected : Obligations.ReservedEncodingsAreRejected := by
  intro rest n p b c
  have h12 : lead (n ++ 12#4) = .reserved .condition := lead_of_ofCode_none n rfl
  have h14 : lead (n ++ 14#4) = .reserved .condition := lead_of_ofCode_none n rfl
  have h15 : lead (n ++ 15#4) = .reserved .condition := lead_of_ofCode_none n rfl
  refine ⟨fun hn => decode_reserved_lead (lead_above_prefixes hn) _,
    ⟨decode_reserved_lead h12 _, decode_reserved_lead h14 _, decode_reserved_lead h15 _⟩,
    fun hp hb => (decode_predByte hp _).trans (fmtSys_of_ne hb _ c rest),
    fun hp hb => (decode_predByte hp _).trans (fmtSys_of_ne hb _ c rest), ?_⟩
  intro m k h2 h8 hk behind
  have hbehind {bs : List Byte} {e : Reserved} (h : decodeExt bs = .reserved e) : behind bs = .reserved e :=
    decode_prefix_reserved h2 h8 hk h
  refine ⟨fun hn => hbehind (decodeExt_upTo_prefixes hn _), hbehind rfl,
    fun hn => hbehind (decodeExt_reserved_lead (lead_above_prefixes hn) _),
    hbehind (decodeExt_reserved_lead h12 _), hbehind (decodeExt_reserved_lead h14 _),
    hbehind (decodeExt_reserved_lead h15 _), fun hp hcmpi hb => hbehind ?_⟩
  rw [decodeExt_predByte hp, decodeExtOrdinary_opcode hcmpi, decodeExtOpcode_misplaced hb]

/-! ### Unassigned opcodes and sub-codes (R142) -/

/-- The opcode bytes of R142 that no row uses. -/
abbrev UnassignedOpcode (op : Byte) : Prop :=
  op.toNat ∈ [0x42, 0x43, 0x46, 0x47, 0x4A, 0x4B, 0x4E, 0x4F, 0x71, 0x8F, 0x94, 0x95, 0x99, 0x9B, 0x9F, 0xA0, 0xA1,
    0xF1, 0xF2, 0xF6, 0xF7] ∨
  (0x58 ≤ op.toNat ∧ op.toNat ≤ 0x63) ∨ (0x66 ≤ op.toNat ∧ op.toNat ≤ 0x6A) ∨ (0x73 ≤ op.toNat ∧ op.toNat ≤ 0x7F) ∨
  (0x87 ≤ op.toNat ∧ op.toNat ≤ 0x8D) ∨ (0xAC ≤ op.toNat ∧ op.toNat ≤ 0xAF) ∨ (0xB7 ≤ op.toNat ∧ op.toNat ≤ 0xBF) ∨
  (0xC4 ≤ op.toNat ∧ op.toNat ≤ 0xCF) ∨ (0xD4 ≤ op.toNat ∧ op.toNat ≤ 0xEF) ∨ 0xFC ≤ op.toNat

theorem UnassignedOpcode.ge {op : Byte} (h : UnassignedOpcode op) : 0x40 ≤ op.toNat := by
  simp only [UnassignedOpcode, List.mem_cons, List.not_mem_nil, or_false] at h
  omega

/-- No row of `decodeOpcode` is in R142's list, so an opcode of that list meets the last arm. -/
theorem decodeOpcode_unassigned {op : Byte} (h : UnassignedOpcode op) (p : Pred) (r : List Byte) :
    decodeOpcode p op r = .unassigned p := by
  unfold decodeOpcode
  split
  case h_78 => rfl
  all_goals exact absurd h (by decide)

/-- From 40h on the opcode byte is whole (R123, R124). -/
theorem decodeOrdinary_opcode {op : Byte} (h : 0x40 ≤ op.toNat) (p : Pred) (r : List Byte) :
    decodeOrdinary p (op :: r) = decodeOpcode p op r := by
  have hhi : 4 ≤ (hiNibble op).toNat := by rw [hiNibble_toNat]; omega
  rw [decodeOrdinary]
  split
  case h_5 => rfl
  all_goals
    next e =>
    rw [e] at hhi
    exact absurd hhi (by decide)

theorem bfRow_unassigned {func : BitVec 4} (h : 6 ≤ func.toNat) (p : Pred) (ra rt : Reg) (mb me : BitVec 6) :
    bfRow func p ra rt mb me = none := by
  unfold bfRow
  split
  case h_7 => rfl
  all_goals exact absurd h (by decide)

theorem bcdRow_unassigned {func : BitVec 8} (h : 3 ≤ func.toNat) (p : Pred) (ra rb rt : Reg) :
    bcdRow func p ra rb rt = none := by
  unfold bcdRow
  split
  case h_4 => rfl
  all_goals exact absurd h (by decide)

theorem tlbRow_unassigned {cmd : BitVec 4} (h : 9 ≤ cmd.toNat) (p : Pred) (tn : BitVec 4) (r : Reg) :
    tlbRow cmd p tn r = none := by
  unfold tlbRow
  split
  case h_10 => rfl
  all_goals exact absurd h (by decide)

theorem fmtBf_unassigned {d : Byte} (h : 0x60 ≤ d.toNat) (p : Pred) (a t c : Byte) (r : List Byte) :
    fmtBf p (a :: t :: c :: d :: r) = .unassigned p := by
  have hfunc : 6 ≤ (hiNibble d).toNat := by rw [hiNibble_toNat]; omega
  simp only [fmtBf, bfRow_unassigned hfunc]

theorem fmtBcd_unassigned {f : Byte} (h : 3 ≤ f.toNat) (p : Pred) (a b t : Byte) (r : List Byte) :
    fmtBcd p (a :: b :: t :: f :: r) = .unassigned p := by
  simp only [fmtBcd, bcdRow_unassigned h]

theorem fmtTlb_unassigned {a : Byte} (h : 9 ≤ a.toNat % 16) (p : Pred) (b : Byte) (r : List Byte) :
    fmtTlb p (a :: b :: r) = .unassigned p := by
  have hcmd : 9 ≤ (loNibble a).toNat := by rwa [loNibble_toNat]
  simp only [fmtTlb, tlbRow_unassigned hcmd]

/-- Settles O5: the predicate byte gives its predicate back, and no row answers to the opcode or to the sub-code. -/
theorem unassignedOpcodesAreFound : Obligations.UnassignedOpcodesAreFound := by
  intro p op a b c d f rest hp
  refine ⟨fun (hop : UnassignedOpcode op) => ?_,
    fun hd => (decode_predByte hp _).trans (fmtBf_unassigned hd p a b c rest),
    fun hf => (decode_predByte hp _).trans (fmtBcd_unassigned hf p a b c rest),
    fun ha => (decode_predByte hp _).trans (fmtTlb_unassigned ha p b rest)⟩
  rw [decode_predByte hp, decodeOrdinary_opcode hop.ge, decodeOpcode_unassigned hop]

/-- Settles O1: the decoder runs on the nine sequences. -/
theorem specBytesDecode : Obligations.SpecBytesDecode := ⟨rfl, rfl, rfl, rfl, rfl, rfl, rfl, rfl, rfl⟩

end Sys2Proof
end

section
/-!
PROOFS. From bytes to meaning (30_encoding.md R113 to R122, R140, R141, R146): rows that share their words, the step on
bytes that decode and on bytes that do not, prefixed immediates, and the calls, prefixed or not (43_branch.md R234 to
R236).
-/

namespace Sys2Proof.Machine

variable {s : State} {i : Instr}

/-! ### Rows that share their words (R146, R155, R235, R236) -/

theorem exec_jsrRow (p : Pred) (brt br : BReg) (off : BitVec 24) (s : State) :
    exec (jsrRow p brt br off) s = exec (.jsr p brt br off) s := by
  unfold jsrRow
  split
  · next hbr => subst hbr; rfl
  split
  · next hbrt => subst hbrt; rfl
  · rfl

theorem exec_canonical (i : Instr) (s : State) : exec i.canonical s = exec i s := by
  cases i with
  | jsr p brt br off => exact exec_jsrRow p brt br off s
  | jmp p br off => exact exec_jsrRow p 0#4 br off s
  | _ => rfl

/-- Settles O3: LEA is computed as ADDUI, and BSR and JMP as the JSR with the register that they fix. -/
theorem aliasesMeanTheSame : Obligations.AliasesMeanTheSame := exec_canonical

/-! ### A step on the bytes of an instruction (R113, R390) -/

/-- No instruction is longer than what the fetch asks for. -/
theorem encode_length_le (i : Instr) : (encode i).length ≤ maxBytes := by
  cases i with
  | imm16 k e | imm24 k e | imm32 k e | imm40 k e | imm48 k e | imm56 k e | imm64 k e =>
    obtain ⟨-, he⟩ := Laws.ext_encode_length e
    rw [encode_length_of_prefixParts rfl]
    unfold maxBytes
    omega
  | _ => exact Nat.le_of_ble_eq_true rfl

/-- A fetch of at least as many bytes as are found one by one gives these first. -/
theorem State.fetchBytes_of_found {bs : List Byte} {a : Word} {n : Nat}
    (hok : ∀ (k : Nat) (h : k < bs.length), s.fetchByte (a + BitVec.ofNat 64 k) = .ok (bs[k]'h))
    (hn : bs.length ≤ n) : ∃ rest, (s.fetchBytes a n).1 = bs ++ rest := by
  induction bs generalizing a n with
  | nil => exact ⟨_, rfl⟩
  | cons b bs ih =>
    obtain ⟨n, rfl⟩ := Nat.exists_eq_add_one_of_ne_zero (Nat.ne_of_gt (Nat.zero_lt_of_lt hn))
    have hnext : ∀ k, a + 1 + BitVec.ofNat 64 k = a + BitVec.ofNat 64 (k + 1) := by
      intro k; rw [BitVec.ofNat_add, BitVec.add_assoc, BitVec.add_comm 1]; rfl
    have hfirst : s.fetchByte a = .ok b := by simpa using hok 0 (Nat.succ_pos _)
    obtain ⟨rest, hrest⟩ := ih (a := a + 1) (fun k hk => by rw [hnext]; exact hok (k + 1) (Nat.succ_lt_succ hk))
      (Nat.le_of_succ_le_succ hn)
    refine ⟨rest, ?_⟩
    rw [State.fetchBytes, hfirst]
    exact congrArg (b :: ·) hrest

/-- Settles O7: the fetch gives the encoding and something behind it, which decodes to the canonical row. -/
theorem stepRunsTheEncodedInstruction : Obligations.StepRunsTheEncodedInstruction := by
  intro s i hq hwf hfound
  obtain ⟨rest, hbytes⟩ := State.fetchBytes_of_found hfound (encode_length_le i)
  have hdecode : decode (s.sample.fetchBytes s.sample.pc maxBytes).1 = .instr i.canonical (encode i).length :=
    (congrArg decode hbytes).trans (decode_encode hwf rest)
  rw [step_of_quiet_run hq (State.fetch_of_decode hdecode), exec_canonical]

/-! ### A step on bytes that are no instruction (R140, R141, R143) -/

theorem step_of_quiet_stop {o : Out} (h : s.Quiet) (hf : s.sample.fetch = .stop o) : step s = o := by
  simp only [step, State.boundary_of_quiet h, hf]

theorem State.fetch_of_unassigned {p : Pred} (h : decode (s.fetchBytes s.pc maxBytes).1 = .unassigned p) :
    s.fetch = .stop (if s.holds p then .next (s.enter .exception vecUnimplemented s.pc)
      else .refused .unassignedSkipped) := by
  simp only [State.fetch, h]
  split <;> rfl

theorem State.fetch_of_reserved {r : Reserved} (h : decode (s.fetchBytes s.pc maxBytes).1 = .reserved r) :
    s.fetch = .stop (.refused (.reserved r)) := by
  simp only [State.fetch, h]

/-- Settles O11: what the decoder finds ends the step in the fetch, and the predicate picks the exception or the stop. -/
theorem unimplementedInstructionTraps : Obligations.UnimplementedInstructionTraps := by
  intro s p hq
  refine ⟨fun hd hp => ⟨_, ?_, enter_trapFrom s.sample .exception _ _⟩, fun hd hp => ?_,
    fun r hd => step_of_quiet_stop hq (State.fetch_of_reserved hd)⟩
  · rw [step_of_quiet_stop hq (State.fetch_of_unassigned hd), if_pos hp]
    rfl
  · rw [step_of_quiet_stop hq (State.fetch_of_unassigned hd), hp]
    rfl

/-! ### Prefixed immediates (R117, R118, R122) -/

/-- Sign extension leaves the fields below the old top bit. -/
theorem extractLsb'_signExtend {w v : Nat} (x : BitVec w) {k n : Nat} (hw : k + n ≤ w) (hv : w ≤ v) :
    (x.signExtend v).extractLsb' k n = x.extractLsb' k n := by
  apply BitVec.eq_of_getLsbD_eq
  intro j hj
  rw [BitVec.getLsbD_extractLsb', BitVec.getLsbD_extractLsb', BitVec.getLsbD_signExtend,
    decide_eq_true (show k + j < v by omega), if_pos (show k + j < w by omega), Bool.true_and]

theorem immPrefixed_toInt {n : Nat} (h : n ≤ 56) (k : BitVec n) (b : BitVec 8) :
    (immPrefixed k b).toInt = (k ++ b).toInt :=
  BitVec.toInt_signExtend_of_le (by omega)

theorem immPrefixed_low {n : Nat} (h : n ≤ 56) (k : BitVec n) (b : BitVec 8) :
    (immPrefixed k b).extractLsb' 0 8 = b :=
  (extractLsb'_signExtend _ (by omega) (by omega)).trans BitVec.extractLsb'_append_eq_right

theorem immPrefixed_high {n : Nat} (h : n ≤ 56) (k : BitVec n) (b : BitVec 8) :
    (immPrefixed k b).extractLsb' 8 n = k :=
  (extractLsb'_signExtend _ (by omega) (by omega)).trans BitVec.extractLsb'_append_eq_left

/-- The immediate that stands behind a prefix of at most 56 bits, as a number. -/
theorem prefixParts_immediate {n len : Nat} {k : BitVec n} {e : Ext} (h : n ≤ 56)
    (hi : prefixParts i = some (len, immPrefixed k (extField e), e)) :
    ∃ imm, prefixParts i = some (len, imm, e) ∧ imm.toInt = (k ++ extField e).toInt :=
  ⟨_, hi, immPrefixed_toInt h k _⟩

/-- Settles O21: `extField` names the field of each form, and each prefix row holds at most 56 bits. -/
theorem prefixedImmediateIsSigned : Obligations.PrefixedImmediateIsSigned := by
  refine ⟨fun n k b h => ⟨immPrefixed_toInt h k b, immPrefixed_low h k b, immPrefixed_high h k b⟩, ?_⟩
  intro e field tied
  have hfield : field = extField e := by cases e <;> rfl
  rw [hfield]
  refine ⟨?_, ?_, ?_, ?_, ?_, ?_, ?_⟩ <;> exact fun _ => prefixParts_immediate (by decide) rfl

theorem prefixParts_low {n : Nat} {imm : Word} {e : Ext} (h : prefixParts i = some (n, imm, e)) :
    imm.extractLsb' 0 8 = extField e := by
  cases i with
  | imm16 | imm24 | imm32 | imm40 | imm48 | imm56 | imm64 => cases h; exact immPrefixed_low (by decide) _ _
  | _ => cases h

/-! ### Calls (43_branch.md R234 to R236) -/

theorem jsrOffset_eq (br : BReg) (off : BitVec 24) :
    jsrOffset br off = if br = 15 then BitVec.ofInt 64 off.toInt else BitVec.ofNat 64 off.toNat := by
  rw [BitVec.ofNat_toNat]
  rfl

theorem State.jump_getBr (s : State) (a : Word) {r : BReg} (h : r ≠ 15) : (s.jump a).getBr r = s.getBr r :=
  State.getBr_congr (s.jump_br a) h

theorem State.setBr_frame (s : State) (r : BReg) (v : Word) : s.setBr r v = { s with br := (s.setBr r v).br } := by
  unfold State.setBr
  split <;> rfl

/-- `i` completes: the address behind its `len` bytes is in branch register `link` (nothing in registers 0 and 15), the pc
is `target`, and the transfer ends the wait of bytes behind a MEMSB; all else keeps its value. -/
def LinksAndJumps (i : Instr) (s : State) (link : BReg) (target : Word) (len : Nat) : Prop :=
  ∃ t, exec i s = .next t ∧
    (∀ r : BReg, r ≠ 15 → t.getBr r = if r = link ∧ r ≠ 0 then s.pc + BitVec.ofNat 64 len else s.getBr r) ∧
    t.pc = target ∧ t = { s with br := t.br, pc := t.pc, lag := { s.lag with drained := [] } } ∧ SameMemory s t

theorem linksAndJumps_of_call {p : Pred} {link br : BReg} {off : Word} {len : Nat} (hp : s.holds p = true)
    (h : exec i s = s.call p link br off len) : LinksAndJumps i s link (s.getBr br + off) len := by
  refine ⟨_, h.trans (State.predicated_true hp len _), fun r hr => ?_, rfl, ?_, fun a => by simp⟩
  · rw [State.jump_getBr _ _ hr, State.getBr_setBr]
    simp only [ne_eq, hr, not_false_eq_true, and_true]
  · rw [State.setBr_frame]
    rfl

/-- Settles O26: the four forms are calls that differ in the link, the base and the offset they name. -/
theorem callsLinkAndJump : Obligations.CallsLinkAndJump := by
  intro s p brt br off hp
  refine ⟨?_, ?_, ?_, fun i n imm hi => ⟨prefixParts_low hi, ?_⟩⟩
  · rw [← jsrOffset_eq]
    exact linksAndJumps_of_call hp rfl
  · exact linksAndJumps_of_call (br := 15) hp rfl
  · rw [← jsrOffset_eq]
    exact linksAndJumps_of_call hp rfl
  · exact linksAndJumps_of_call hp (exec_of_prefixParts i n imm _ s hi)

end Sys2Proof.Machine
end

section
/-!
PROOFS. Integer arithmetic, logic and moves (40_arithmetic.md R148 to R169, 41_logic_bitfield_bcd.md R190 to R196): the
overflow test of the model is the signed range, an instruction that ends with a value writes it, and one that overflows
takes the exception.
-/

namespace Sys2Proof.Machine

variable {s : State} {i : Instr} {p : Pred} {rt : Reg} {len : Nat}

/-! ### The signed range (R148, D9) -/

/-- The integers that a word holds as a signed number. -/
abbrev FitsWord (z : Int) : Prop := -2 ^ 63 ≤ z ∧ z < 2 ^ 63

/-- What R148 and R149 ask of an instruction whose signed result is the integer `z`. -/
def exactOrOverflow (z : Int) : AluResult := if FitsWord z then .value (BitVec.ofInt 64 z) else .overflow

theorem ofInt_toInt_add (a b : Word) : BitVec.ofInt 64 (a.toInt + b.toInt) = a + b := by
  rw [BitVec.ofInt_add, BitVec.ofInt_toInt, BitVec.ofInt_toInt]

theorem ofInt_toInt_sub (a b : Word) : BitVec.ofInt 64 (a.toInt - b.toInt) = a - b := by
  rw [Int.sub_eq_add_neg, BitVec.ofInt_add, BitVec.ofInt_neg, BitVec.ofInt_toInt, BitVec.ofInt_toInt,
    BitVec.sub_eq_add_neg]

theorem addOverflows_iff (a b : Word) : addOverflows a b = true ↔ ¬ FitsWord (a.toInt + b.toInt) := by
  have h : addOverflows a b = a.saddOverflow b := (BitVec.saddOverflow_eq a b).symm
  simp only [h, BitVec.saddOverflow, FitsWord, Bool.or_eq_true, decide_eq_true_eq]
  omega

theorem subOverflows_iff (a b : Word) : subOverflows a b = true ↔ ¬ FitsWord (a.toInt - b.toInt) := by
  have h : subOverflows a b = a.ssubOverflow b := by
    rw [BitVec.ssubOverflow_eq, subOverflows]
    cases a.msb <;> cases b.msb <;> simp
  simp only [h, BitVec.ssubOverflow, FitsWord, Bool.or_eq_true, decide_eq_true_eq]
  omega

theorem addTrapping_eq (a b : Word) : addTrapping a b = exactOrOverflow (a.toInt + b.toInt) := by
  simp only [addTrapping, exactOrOverflow, addOverflows_iff, ofInt_toInt_add, ite_not]

theorem subTrapping_eq (a b : Word) : subTrapping a b = exactOrOverflow (a.toInt - b.toInt) := by
  simp only [subTrapping, exactOrOverflow, subOverflows_iff, ofInt_toInt_sub, ite_not]

/-! ### How the instructions end (R16, R149) -/

theorem writesX_of_predicated_result {v : Word} (hp : s.holds p = true)
    (h : exec i s = s.predicated p len (s.result rt len v)) : WritesX i s rt v len :=
  writesX_of_result i s rt v len (h.trans (State.predicated_true hp len _))

theorem writesX_of_predicated_alu {r : AluResult} {v : Word} (hp : s.holds p = true)
    (h : exec i s = s.predicated p len (s.aluResult rt len r)) (hr : r = .value v) : WritesX i s rt v len :=
  writesX_of_predicated_result hp (by rw [h, hr]; rfl)

/-- `i` writes the integer `z` to `rt` when a word holds it, and takes the overflow exception when none does. -/
def ExactOrTraps (i : Instr) (s : State) (rt : Reg) (z : Int) (len : Nat) : Prop :=
  (FitsWord z → WritesX i s rt (BitVec.ofInt 64 z) len) ∧
    (¬ FitsWord z → ∃ t, exec i s = .next t ∧ TrapFrom s t 13 s.cfg.overflowVector s.pc)

theorem exactOrTraps_of_exec {z : Int} (hp : s.holds p = true)
    (h : exec i s = s.predicated p len (s.aluResult rt len (exactOrOverflow z))) : ExactOrTraps i s rt z len := by
  constructor
  · intro hz
    exact writesX_of_predicated_alu hp h (if_pos hz)
  · intro hz
    have hover : exactOrOverflow z = .overflow := if_neg hz
    refine ⟨_, ?_, enter_trapFrom s .exception _ _⟩
    rw [h, State.predicated_true hp, hover]
    rfl

theorem exactOrTraps_of_add {a b : Word} (hp : s.holds p = true)
    (h : exec i s = s.predicated p len (s.aluResult rt len (addTrapping a b))) :
    ExactOrTraps i s rt (a.toInt + b.toInt) len :=
  exactOrTraps_of_exec hp (addTrapping_eq a b ▸ h)

theorem exactOrTraps_of_sub {a b : Word} (hp : s.holds p = true)
    (h : exec i s = s.predicated p len (s.aluResult rt len (subTrapping a b))) :
    ExactOrTraps i s rt (a.toInt - b.toInt) len :=
  exactOrTraps_of_exec hp (subTrapping_eq a b ▸ h)

/-! ### ADD, SUB, ADDI and SUBI (R148 to R153) -/

theorem imm8_toInt (b : BitVec 8) : (imm8 b).toInt = b.toInt := BitVec.toInt_signExtend_of_le (by decide)

theorem exactOrTraps_addi (hp : s.holds p = true) (ra rt : Reg) (b : BitVec 8) :
    ExactOrTraps (.addi p ra rt b) s rt ((s.getX ra).toInt + b.toInt) 5 :=
  imm8_toInt b ▸ exactOrTraps_of_add hp rfl

theorem exactOrTraps_subi (hp : s.holds p = true) (ra rt : Reg) (b : BitVec 8) :
    ExactOrTraps (.subi p ra rt b) s rt ((s.getX ra).toInt - b.toInt) 5 :=
  imm8_toInt b ▸ exactOrTraps_of_sub hp rfl

/-- Behind a prefix ADDI and SUBI are as without it, with the prefixed immediate (R118). -/
theorem exec_prefixed_alu {n : Nat} {imm : Word} {op : ImmOp} {ra : Reg} {b : BitVec 8}
    (h : prefixParts i = some (n, imm, .alu op p ra rt b)) :
    exec i s = s.predicated p (n + 5) (s.aluResult rt (n + 5) (immOp op (s.getX ra) imm)) :=
  exec_of_prefixParts i n imm _ s h

/-- Settles O17: the six forms end alike, and O17 is what they do in range. -/
theorem signedAddAndSubtract : Obligations.SignedAddAndSubtract := by
  intro s p ra rb rt b hp
  exact ⟨(exactOrTraps_of_add hp rfl).1, (exactOrTraps_of_sub hp rfl).1, (exactOrTraps_addi hp ra rt b).1,
    (exactOrTraps_subi hp ra rt b).1, fun i n imm hi => (exactOrTraps_of_add hp (exec_prefixed_alu hi)).1,
    fun i n imm hi => (exactOrTraps_of_sub hp (exec_prefixed_alu hi)).1⟩

/-- Settles O18: the six forms end alike, and O18 is what they do out of range. -/
theorem signedOverflowTraps : Obligations.SignedOverflowTraps := by
  intro s p ra rb rt b hp
  exact ⟨(exactOrTraps_of_add (rt := rt) (len := 5) hp rfl).2, (exactOrTraps_of_sub (rt := rt) (len := 5) hp rfl).2,
    (exactOrTraps_addi hp ra rt b).2, (exactOrTraps_subi hp ra rt b).2,
    fun i n imm hi => (exactOrTraps_of_add hp (exec_prefixed_alu hi)).2,
    fun i n imm hi => (exactOrTraps_of_sub hp (exec_prefixed_alu hi)).2⟩

/-! ### Register-immediate operations that never trap (R155 to R165, R191 to R195) -/

/-- Settles O20: each operation but ADDI and SUBI has a value, the one the statement names. -/
theorem registerImmediateOperations : Obligations.RegisterImmediateOperations := by
  intro s p ra rt b hp x result plain
  have value_of_result : ∀ op imm v, result op imm = some v → immOp op x imm = .value v := by
    intro op imm v h
    cases op with
    | addi | subi => cases h
    | addui | subui | andi | ori | eori => cases h; rfl
    | addui2 | addui4 | addui8 | addui16 => cases h; rw [BitVec.mul_comm]; rfl
  have plain_of_exec : ∀ op i, exec i s = s.immAlu op p ra rt (imm8 b) 5 → plain op i :=
    fun op i h v hv => writesX_of_predicated_alu hp h (value_of_result op _ v hv)
  refine ⟨plain_of_exec .addui _ rfl, plain_of_exec .addui _ rfl, plain_of_exec .subui _ rfl,
    plain_of_exec .addui2 _ rfl, plain_of_exec .addui4 _ rfl, plain_of_exec .addui8 _ rfl,
    plain_of_exec .addui16 _ rfl, plain_of_exec .andi _ rfl, plain_of_exec .ori _ rfl, plain_of_exec .eori _ rfl, ?_⟩
  intro i n imm op v hi hv
  exact writesX_of_predicated_alu hp (exec_prefixed_alu hi) (value_of_result op imm v hv)

/-! ### Moves and load immediates (R166 to R169, R196) -/

theorem ofInt_neg_toInt (a : Word) : BitVec.ofInt 64 (-a.toInt) = 0 - a := by
  rw [BitVec.ofInt_neg, BitVec.ofInt_toInt]
  exact (BitVec.zero_sub a).symm

theorem getLsbD_muxBits (mask b c : Word) {k : Nat} (hk : k < 64) :
    (muxBits mask b c).getLsbD k = if mask.getLsbD k then b.getLsbD k else c.getLsbD k := by
  simp only [muxBits, BitVec.getLsbD_or, BitVec.getLsbD_and, BitVec.getLsbD_not, hk, decide_true, Bool.true_and]
  cases mask.getLsbD k <;> simp

/-- Settles O22: each instruction ends with a register result; what is left is the value of NEG, LDIT8 and MUX. -/
theorem movesAndLoadImmediates : Obligations.MovesAndLoadImmediates := by
  intro s p ra rb rc rt b hp
  refine ⟨?_, writesX_of_predicated_result hp rfl, writesX_of_predicated_result hp rfl, ?_, ?_, ?_⟩
  · rw [ofInt_neg_toInt]
    exact writesX_of_predicated_result hp rfl
  · intro i n imm hi
    exact writesX_of_predicated_result hp (exec_of_prefixParts i n imm _ s hi)
  · exact ⟨b ++ (s.getX rt).extractLsb' 0 56, writesX_of_predicated_result hp rfl, BitVec.extractLsb'_append_eq_left,
      BitVec.extractLsb'_append_eq_right⟩
  · exact ⟨muxBits (s.getX ra) (s.getX rb) (s.getX rc), writesX_of_predicated_result hp rfl,
      fun k hk => getLsbD_muxBits _ _ _ hk⟩

/-! ### Register-register operations that never trap (R154 to R164, R190 to R194) -/

theorem ofNat_toNat_add (a b : Word) : BitVec.ofNat 64 (a.toNat + b.toNat) = a + b := by
  rw [BitVec.ofNat_add, BitVec.ofNat_toNat, BitVec.ofNat_toNat, BitVec.setWidth_eq, BitVec.setWidth_eq]

theorem ofInt_toNat_sub (a b : Word) : BitVec.ofInt 64 ((a.toNat : Int) - b.toNat) = a - b := by
  rw [Int.sub_eq_add_neg, BitVec.ofInt_add, BitVec.ofInt_neg, BitVec.ofInt_natCast, BitVec.ofInt_natCast,
    BitVec.ofNat_toNat, BitVec.ofNat_toNat, BitVec.setWidth_eq, BitVec.setWidth_eq, BitVec.sub_eq_add_neg]

theorem ofNat_toNat_scaled (a b : Word) (k : Nat) :
    BitVec.ofNat 64 (a.toNat * k + b.toNat) = a * BitVec.ofNat 64 k + b := by
  rw [BitVec.ofNat_add, BitVec.ofNat_mul, BitVec.ofNat_toNat, BitVec.ofNat_toNat, BitVec.setWidth_eq,
    BitVec.setWidth_eq]

/-- Settles O19: the encodings are the encoder's rows, and each number the statement names is the word the model
computes. -/
theorem registerRegisterOperations : Obligations.RegisterRegisterOperations := by
  intro s p ra rb rt hp x y does
  have does_of_exec : ∀ i op v, encode i = [p.byte, op, ra, rb, rt] →
      exec i s = s.predicated p 5 (s.result rt 5 v) → does i op v :=
    fun i op v henc h => ⟨henc, writesX_of_predicated_result hp h⟩
  rw [ofNat_toNat_add, ofInt_toNat_sub, ofNat_toNat_scaled, ofNat_toNat_scaled, ofNat_toNat_scaled,
    ofNat_toNat_scaled]
  exact ⟨does_of_exec _ _ _ rfl rfl, does_of_exec _ _ _ rfl rfl, does_of_exec _ _ _ rfl rfl,
    does_of_exec _ _ _ rfl rfl, does_of_exec _ _ _ rfl rfl, does_of_exec _ _ _ rfl rfl, does_of_exec _ _ _ rfl rfl,
    does_of_exec _ _ _ rfl rfl, does_of_exec _ _ _ rfl rfl⟩

end Sys2Proof.Machine
end

section
/-!
PROOFS. Bitfields and BCD (41_logic_bitfield_bcd.md R197 to R208): a field within its bounds ends with a register
result, whose bits are those of the mask and of the extracted field; two nibbles below ten are the digits that the BCD
instructions read, and what they pack is R208's four digits.
-/

namespace Sys2Proof.Machine

variable {s : State} {i : Instr} {p : Pred} {rt : Reg} {mb me : BitVec 6} {k : Nat}

/-! ### The bits of a field (R197) -/

theorem getLsbD_fieldMask (hm : mb.toNat ≤ me.toNat) (hk : k < 64) :
    (fieldMask mb me).getLsbD k = (decide (mb.toNat ≤ k) && decide (k ≤ me.toNat)) := by
  have hwidth : k < mb.toNat + fieldWidth mb me ↔ k ≤ me.toNat := by unfold fieldWidth; omega
  simp only [fieldMask, BitVec.getLsbD_shiftLeft, BitVec.getLsbD_ofNat, Nat.testBit_two_pow_sub_one]
  by_cases hlow : mb.toNat ≤ k
  · have hin : k - mb.toNat < fieldWidth mb me ↔ k ≤ me.toNat := by omega
    have hk' : k - mb.toNat < 64 := by omega
    simp [hk, hk', hlow, hin, Nat.not_lt.mpr hlow]
  · simp [hlow, Nat.lt_of_not_le hlow]

theorem getLsbD_bfins (x y : Word) (hm : mb.toNat ≤ me.toNat) (hk : k < 64) :
    ((y &&& ~~~fieldMask mb me) ||| ((x <<< mb.toNat) &&& fieldMask mb me)).getLsbD k =
      if decide (mb.toNat ≤ k) && decide (k ≤ me.toNat) then x.getLsbD (k - mb.toNat) else y.getLsbD k := by
  simp only [BitVec.getLsbD_or, BitVec.getLsbD_and, BitVec.getLsbD_not, BitVec.getLsbD_shiftLeft,
    getLsbD_fieldMask hm hk, hk]
  by_cases hlow : mb.toNat ≤ k
  · cases decide (k ≤ me.toNat) <;> simp [hlow]
  · simp [hlow]

theorem getLsbD_extractField (x : Word) :
    (x.extractLsb' mb.toNat (fieldWidth mb me)).getLsbD k =
      (decide (k < fieldWidth mb me) && x.getLsbD (k + mb.toNat)) := by
  rw [BitVec.getLsbD_extractLsb', Nat.add_comm]

theorem getLsbD_bfextu (x : Word) (hm : mb.toNat ≤ me.toNat) (hk : k < 64) :
    ((x.extractLsb' mb.toNat (fieldWidth mb me)).setWidth 64).getLsbD k =
      (decide (k + mb.toNat ≤ me.toNat) && x.getLsbD (k + mb.toNat)) := by
  have hwidth : k < fieldWidth mb me ↔ k + mb.toNat ≤ me.toNat := by unfold fieldWidth; omega
  simp only [BitVec.getLsbD_setWidth, getLsbD_extractField, hk, hwidth, decide_true, Bool.true_and]

/-- Above the field BFEXT repeats the field's top bit, which is bit `me` of the source (R203). -/
theorem getLsbD_bfext (x : Word) (hm : mb.toNat ≤ me.toNat) (hk : k < 64) :
    ((x.extractLsb' mb.toNat (fieldWidth mb me)).signExtend 64).getLsbD k =
      x.getLsbD (min (k + mb.toNat) me.toNat) := by
  have hwidth : fieldWidth mb me = me.toNat - mb.toNat + 1 := rfl
  rw [BitVec.getLsbD_signExtend, BitVec.msb_eq_getLsbD_last, getLsbD_extractField, getLsbD_extractField]
  by_cases hin : k < fieldWidth mb me
  · have hmin : min (k + mb.toNat) me.toNat = k + mb.toNat := by omega
    simp [hk, hin, hmin]
  · have hmin : min (k + mb.toNat) me.toNat = me.toNat := by omega
    have htop : fieldWidth mb me - 1 + mb.toNat = me.toNat := by omega
    have hpos : fieldWidth mb me - 1 < fieldWidth mb me := by omega
    simp [hk, hin, hmin, htop, hpos]

/-! ### The six bitfield instructions (R198 to R203) -/

theorem State.bitfield_inBounds (hm : mb.toNat ≤ me.toNat) (v : Word) :
    s.bitfield p rt mb me v = s.predicated p 6 (s.result rt 6 v) := by
  rw [State.bitfield, if_neg (Nat.not_lt.mpr hm)]

theorem writesX_of_bitfield {v : Word} (hp : s.holds p = true) (hm : mb.toNat ≤ me.toNat)
    (h : exec i s = s.bitfield p rt mb me v) : WritesX i s rt v 6 :=
  writesX_of_predicated_result hp (h.trans (State.bitfield_inBounds hm v))

/-- Settles O23: within its bounds each of the six writes the word of the model, and its bits are those of the mask or
of the extracted field. -/
theorem bitfieldOperations : Obligations.BitfieldOperations := by
  intro s p ra rt mb me hp hm x inside does
  have does_of_exec : ∀ i v bit, exec i s = s.bitfield p rt mb me v → (∀ k < 64, v.getLsbD k = bit k) → does i bit :=
    fun i v bit h hbits => ⟨v, writesX_of_bitfield hp hm h, hbits⟩
  refine ⟨does_of_exec _ _ _ rfl ?bfins, does_of_exec _ _ _ rfl ?bfset, does_of_exec _ _ _ rfl ?bfclr,
    does_of_exec _ _ _ rfl ?bfchg, does_of_exec _ _ _ rfl ?bfextu, does_of_exec _ _ _ rfl ?bfext⟩
  case bfins => exact fun k hk => getLsbD_bfins _ _ hm hk
  case bfset =>
    intro k hk
    rw [BitVec.getLsbD_or, getLsbD_fieldMask hm hk, Bool.or_comm]
  case bfclr =>
    intro k hk
    rw [BitVec.getLsbD_and, BitVec.getLsbD_not, getLsbD_fieldMask hm hk, decide_eq_true hk, Bool.true_and,
      Bool.and_comm]
  case bfchg =>
    intro k hk
    rw [BitVec.getLsbD_xor, getLsbD_fieldMask hm hk, Bool.xor_comm]
  case bfextu => exact fun k hk => getLsbD_bfextu _ hm hk
  case bfext => exact fun k hk => getLsbD_bfext _ hm hk

/-! ### Packed digits (R204, R208) -/

/-- The nibbles of the low byte, tens above ones. -/
theorem nibbles_of_lowByte {v : Word} {tens ones : Nat} (hv : v.toNat % 256 = 16 * tens + ones) (h1 : tens < 16)
    (h0 : ones < 16) : (v.extractLsb' 4 4).toNat = tens ∧ (v.extractLsb' 0 4).toNat = ones := by
  simp only [BitVec.extractLsb'_toNat, Nat.shiftRight_eq_div_pow]
  omega

theorem bcdValid_iff {v : Word} {tens ones : Nat} (hv : v.toNat % 256 = 16 * tens + ones) (h1 : tens < 16)
    (h0 : ones < 16) : bcdValid v = true ↔ tens ≤ 9 ∧ ones ≤ 9 := by
  obtain ⟨htens, hones⟩ := nibbles_of_lowByte hv h1 h0
  rw [bcdValid, htens, hones, Bool.and_eq_true, decide_eq_true_eq, decide_eq_true_eq, and_comm]

theorem bcd2_eq {v : Word} {tens ones : Nat} (hv : v.toNat % 256 = 16 * tens + ones) (h1 : tens < 16)
    (h0 : ones < 16) : bcd2 v = 10 * tens + ones := by
  obtain ⟨htens, hones⟩ := nibbles_of_lowByte hv h1 h0
  rw [bcd2, htens, hones]

theorem toBcd4_eq (n : Nat) :
    toBcd4 n = BitVec.ofNat 64 (n / 1000 * 4096 + n / 100 % 10 * 256 + n / 10 % 10 * 16 + n % 10) := by
  rw [toBcd4, Nat.mul_comm 4096, Nat.mul_comm 256, Nat.mul_comm 16]

/-- Below 100 the two upper digits are 0. -/
theorem toBcd2_eq_toBcd4 {n : Nat} (hn : n < 100) : toBcd2 n = toBcd4 n := by
  rw [toBcd2, toBcd4]
  congr 1
  omega

/-- The model's discarded borrow is the remainder of the signed difference (R206). -/
theorem bcdDifference_eq {a b : Nat} (hb : b < 100) : (a + 100 - b) % 100 = (((a : Int) - b) % 100).toNat := by
  omega

/-! ### BCDADD, BCDSUB and BCDMUL (R205 to R207) -/

theorem exec_bcdadd_eq (p : Pred) (ra rb rt : Reg) (s : State) :
    exec (.bcdadd p ra rb rt) s = s.bcd p ra rb rt fun a b => toBcd2 ((a + b) % 100) := rfl

theorem exec_bcdsub_eq (p : Pred) (ra rb rt : Reg) (s : State) :
    exec (.bcdsub p ra rb rt) s = s.bcd p ra rb rt fun a b => toBcd2 ((a + 100 - b) % 100) := rfl

theorem exec_bcdmul_eq (p : Pred) (ra rb rt : Reg) (s : State) :
    exec (.bcdmul p ra rb rt) s = s.bcd p ra rb rt fun a b => toBcd4 (a * b) := rfl

theorem writesX_of_bcd {ra rb : Reg} {f : Nat → Nat → Word} (hp : s.holds p = true)
    (h : exec i s = s.bcd p ra rb rt f) : ∃ v, WritesX i s rt v 6 :=
  ⟨_, writesX_of_predicated_result hp h⟩

theorem writesX_of_bcd_digits {ra rb : Reg} {f : Nat → Nat → Word} (hp : s.holds p = true)
    (h : exec i s = s.bcd p ra rb rt f) (ha : bcdValid (s.getX ra) = true) (hb : bcdValid (s.getX rb) = true) :
    WritesX i s rt (f (bcd2 (s.getX ra)) (bcd2 (s.getX rb))) 6 :=
  writesX_of_predicated_result hp (by rw [h, State.bcd, ha, hb]; rfl)

/-- Settles O24: with digits in both sources the result is the model's packing of their numbers; any other source
leaves a register result too. -/
theorem bcdOperations : Obligations.BcdOperations := by
  intro s p ra rb rt a1 a0 b1 b0 hp ha ha1 ha0 hb hb1 hb0 valid a b packed
  constructor
  · intro ⟨hva1, hva0, hvb1, hvb0⟩
    have digits : ∀ i f v, exec i s = s.bcd p ra rb rt f → f a b = v → WritesX i s rt v 6 := by
      rintro i f _ h rfl
      have hw := writesX_of_bcd_digits hp h ((bcdValid_iff ha ha1 ha0).mpr ⟨hva1, hva0⟩)
        ((bcdValid_iff hb hb1 hb0).mpr ⟨hvb1, hvb0⟩)
      rwa [bcd2_eq ha ha1 ha0, bcd2_eq hb hb1 hb0] at hw
    have packed_mod : ∀ n, toBcd2 (n % 100) = packed (n % 100) := fun n =>
      (toBcd2_eq_toBcd4 (Nat.mod_lt n (by decide))).trans (toBcd4_eq _)
    have hdiff : (a + 100 - b) % 100 = (((a : Int) - b) % 100).toNat := bcdDifference_eq (by omega)
    exact ⟨digits _ _ _ (exec_bcdadd_eq p ra rb rt s) (packed_mod _),
      digits _ _ _ (exec_bcdsub_eq p ra rb rt s) (hdiff ▸ packed_mod _),
      digits _ _ _ (exec_bcdmul_eq p ra rb rt s) (toBcd4_eq _)⟩
  · intro _
    exact ⟨writesX_of_bcd hp (exec_bcdadd_eq p ra rb rt s), writesX_of_bcd hp (exec_bcdsub_eq p ra rb rt s),
      writesX_of_bcd hp (exec_bcdmul_eq p ra rb rt s)⟩

end Sys2Proof.Machine
end

section
/-!
PROOFS. Compares and tests (42_compare.md R219 to R223): the flags are equality and the two orders, and TST is a
compare with 0; the conditions read the comparisons back.
-/

namespace Sys2Proof.Machine

variable {s : State} {i : Instr} {p : Pred} {pt : PReg} {len : Nat}

/-! ### The flags of a compare (R219 to R222) -/

@[simp] theorem flagEq_packFlags (ltu lt eq : Bool) : flagEq (packFlags ltu lt eq) = eq := by
  revert ltu lt eq; decide

@[simp] theorem flagLt_packFlags (ltu lt eq : Bool) : flagLt (packFlags ltu lt eq) = lt := by
  revert ltu lt eq; decide

@[simp] theorem flagLtu_packFlags (ltu lt eq : Bool) : flagLtu (packFlags ltu lt eq) = ltu := by
  revert ltu lt eq; decide

@[simp] theorem packFlags_bit3 (ltu lt eq : Bool) : (packFlags ltu lt eq).getLsbD 3 = false := by
  revert ltu lt eq; decide

theorem flagEq_compareFlags (a b : Word) : flagEq (compareFlags a b) = decide (a = b) := by
  rw [compareFlags, flagEq_packFlags, beq_eq_decide]

theorem flagLt_compareFlags (a b : Word) : flagLt (compareFlags a b) = decide (a.toInt < b.toInt) := by
  rw [compareFlags, flagLt_packFlags, BitVec.slt_eq_decide]

theorem flagLtu_compareFlags (a b : Word) : flagLtu (compareFlags a b) = decide (a.toNat < b.toNat) := by
  rw [compareFlags, flagLtu_packFlags, BitVec.ult_eq_decide]

/-- No word is below 0 unsigned, and a word is below 0 signed when its top bit is set. -/
theorem testFlags_eq_compareFlags (a : Word) : testFlags a = compareFlags a 0 := by
  have hltu : BitVec.ult a 0 = false := decide_eq_false (Nat.not_lt_zero _)
  have hlt : BitVec.slt a 0 = a.msb := BitVec.slt_zero_eq_msb
  rw [testFlags, compareFlags, hltu, hlt]

/-- Equality in bit 0, signed and unsigned order in bits 1 and 2, bit 3 clear: the flags of comparing `x` with `y`. -/
def FlagsCompare (f : BitVec 4) (x y : Word) : Prop :=
  f.getLsbD 0 = decide (x = y) ∧ f.getLsbD 1 = decide (x.toInt < y.toInt) ∧
    f.getLsbD 2 = decide (x.toNat < y.toNat) ∧ f.getLsbD 3 = false

theorem flagsCompare_compareFlags (x y : Word) : FlagsCompare (compareFlags x y) x y :=
  ⟨flagEq_compareFlags x y, flagLt_compareFlags x y, flagLtu_compareFlags x y, packFlags_bit3 _ _ _⟩

/-! ### CMP, CMPI and TST -/

theorem writesP_of_compare {x y : Word} (hp : s.holds p = true)
    (h : exec i s = s.compare p pt (compareFlags x y) len) : ∃ f, FlagsCompare f x y ∧ WritesP i s pt f len :=
  ⟨_, flagsCompare_compareFlags x y, writesP_of_setP i s pt _ len (h.trans (State.predicated_true hp len _))⟩

theorem exec_tst_eq (p : Pred) (pt : PReg) (ra : Reg) (s : State) :
    exec (.tst p pt ra) s = s.compare p pt (compareFlags (s.getX ra) 0) 3 :=
  testFlags_eq_compareFlags (s.getX ra) ▸ rfl

/-- Settles O15: the four forms are compares that differ in the second operand and the length. -/
theorem comparesSetFlags : Obligations.ComparesSetFlags := by
  intro s p pt ra rb b hp flags
  exact ⟨writesP_of_compare hp rfl, writesP_of_compare hp rfl, writesP_of_compare hp (exec_tst_eq p pt ra s),
    fun i n imm hi => writesP_of_compare hp (exec_of_prefixParts i n imm _ s hi)⟩

/-! ### The conditions after a compare (R34, R223) -/

/-- Words with equal signed values are equal, so less or equal as flags is `≤` of the values. -/
theorem flagLt_or_flagEq_compareFlags (a b : Word) :
    (flagLt (compareFlags a b) || flagEq (compareFlags a b)) = decide (a.toInt ≤ b.toInt) := by
  rw [flagLt_compareFlags, flagEq_compareFlags, ← Bool.decide_or, decide_eq_decide, ← BitVec.toInt_inj,
    Int.le_iff_lt_or_eq]

theorem flagLtu_or_flagEq_compareFlags (a b : Word) :
    (flagLtu (compareFlags a b) || flagEq (compareFlags a b)) = decide (a.toNat ≤ b.toNat) := by
  rw [flagLtu_compareFlags, flagEq_compareFlags, ← Bool.decide_or, decide_eq_decide, ← BitVec.toNat_inj,
    Nat.le_iff_lt_or_eq]

/-- Settles O16: five conditions read one comparison each, and the other five are their negations. -/
theorem conditionsMeanComparisons : Obligations.ConditionsMeanComparisons := by
  intro a b sig h
  have heq : h .peq = decide (a = b) := flagEq_compareFlags a b
  have hlt : h .plt = decide (a.toInt < b.toInt) := flagLt_compareFlags a b
  have hle : h .ple = decide (a.toInt ≤ b.toInt) := flagLt_or_flagEq_compareFlags a b
  have hltu : h .pltu = decide (a.toNat < b.toNat) := flagLtu_compareFlags a b
  have hleu : h .pleu = decide (a.toNat ≤ b.toNat) := flagLtu_or_flagEq_compareFlags a b
  have hne : h .pne = !h .peq := rfl
  have hge : h .pge = !h .plt := rfl
  have hgt : h .pgt = !h .ple := rfl
  have hgeu : h .pgeu = !h .pltu := rfl
  have hgtu : h .pgtu = !h .pleu := rfl
  simp only [hne, hge, hgt, hgeu, hgtu, heq, hlt, hle, hltu, hleu, ← decide_not, not_lt, not_le, ne_eq, and_self]

end Sys2Proof.Machine
end

section
/-!
PROOFS. Branches, returns and LOOP (43_branch.md R230, R238 to R240), the traps that software takes (R242, 45_system.md
R330, R331), and the instructions that only go on (R241, R326, R327, 46_tlb.md R352).
-/

namespace Sys2Proof.Machine

variable {s : State} {i : Instr} {p : Pred}

/-! ### Displacements and the constant of RTS (R117) -/

theorem brDisp_eq (d : BitVec 12) : brDisp d = BitVec.ofInt 64 d.toInt := rfl

theorem imm8_eq (b : BitVec 8) : imm8 b = BitVec.ofInt 64 b.toInt := rfl

theorem rtsImm_eq (d : BitVec 4) : rtsImm d = BitVec.ofNat 64 d.toNat := (BitVec.ofNat_toNat 64 d).symm

/-! ### Branches and returns (R230, R238, R239) -/

theorem jumpsTo_of_jump {target : Word} (h : exec i s = .next (s.jump target)) : JumpsTo i s target :=
  ⟨_, h, rfl, fun a => by rw [State.jump_mem]⟩

theorem jumpsTo_br (hp : s.holds p = true) (disp : BitVec 12) :
    JumpsTo (.br p disp) s (s.pc + BitVec.ofInt 64 disp.toInt) := by
  rw [← brDisp_eq]
  exact jumpsTo_of_jump (exec_br_taken hp disp)

theorem jumpsTo_rts (hp : s.holds p = true) (im br : BitVec 4) :
    JumpsTo (.rts p im br) s (s.getBr br + BitVec.ofNat 64 im.toNat) := by
  rw [← rtsImm_eq]
  exact jumpsTo_of_jump (State.predicated_true hp 3 _)

theorem jumpsTo_rtsShort (s : State) : JumpsTo .rtsShort s (s.getBr 1) := jumpsTo_of_jump rfl

/-! ### LOOP (R240, D42, D43) -/

theorem exec_loop (hp : s.holds p = true) (d : BitVec 8) :
    exec (.loop p d) s =
      .next (if s.lc = 0 then s.advance 3 else (s.setLc (s.lc - 1)).jump (s.pc + imm8 d)) :=
  State.predicated_true hp 3 _

theorem exec_loop_taken (hp : s.holds p = true) (hlc : s.lc ≠ 0) (d : BitVec 8) :
    exec (.loop p d) s = .next ((s.setLc (s.lc - 1)).jump (s.pc + BitVec.ofInt 64 d.toInt)) := by
  rw [exec_loop hp, if_neg hlc, imm8_eq]

theorem exec_loop_done (hp : s.holds p = true) (hlc : s.lc = 0) (d : BitVec 8) :
    exec (.loop p d) s = .next (s.advance 3) := by
  rw [exec_loop hp, if_pos hlc]

/-- Settles O25: BR and both forms of RTS are jumps, and LOOP is one, after the decrement, until the counter is 0. -/
theorem branchesAndReturns : Obligations.BranchesAndReturns := by
  intro s p disp d im br hp
  refine ⟨jumpsTo_br hp disp, jumpsTo_rts hp im br, jumpsTo_rtsShort s, fun hlc => ?_,
    fun hlc => exec_loop_done hp hlc d⟩
  refine ⟨_, exec_loop_taken hp hlc d, fun a => ?_, rfl⟩
  rw [State.jump_mem, State.setLc_mem]

/-! ### BRK, SYS and INT (R242, R330, R331, R376, R377) -/

theorem trapFrom_of_enter {k : TrapKind} {v : BitVec 8} {ret : Word} (h : exec i s = .next (s.enter k v ret)) :
    ∃ t, exec i s = .next t ∧ TrapFrom s t k.link v ret :=
  ⟨_, h, enter_trapFrom s k v ret⟩

/-- Settles O28: each of the three enters a trap; they differ in the kind, the vector and the return address. -/
theorem softwareTraps : Obligations.SoftwareTraps := by
  intro s p vec
  have hbrk : exec .brk s = .next (s.enter .exception vecBreak (s.pc + 1)) := rfl
  refine ⟨trapFrom_of_enter hbrk, fun hp => ?_⟩
  have hsys : exec (.sys p vec) s = .next (s.enter .exception vec (s.pc + 4)) := State.predicated_true hp 4 _
  have hint : exec (.int p vec) s = .next (s.enter .interrupt vec s.pc) := State.predicated_true hp 4 _
  exact ⟨trapFrom_of_enter hsys, trapFrom_of_enter hint⟩

/-! ### NOP, MEMDB, MEMSB and TLB command 0 (R241, R326, R327, R352) -/

/-- TLB command 0 ends as every TLB command does, with the state that it found (R352). -/
theorem exec_tlbnop (hp : s.holds p = true) (tn : BitVec 4) (r : Reg) :
    exec (.tlbnop p tn r) s = .next (s.advance 4) :=
  State.predicated_true hp 4 _

/-- Settles O27: NOP and MEMDB advance outright, MEMSB after `State.drain`, and TLB command 0 under its predicate. -/
theorem instructionsWithoutEffect : Obligations.InstructionsWithoutEffect := by
  intro s p tn r hp
  have hnop : exec .nop s = .next (s.advance 1) := rfl
  have hmemdb : exec (.memdb p) s = .next (s.advance 2) := rfl
  exact ⟨hnop, hmemdb, exec_memsb p s, exec_tlbnop hp tn r⟩

end Sys2Proof.Machine
end

section
/-!
PROOFS. Loads, stores and string stores (44_load_store.md R261, R269, R278, R300 to R306): LWS and CAS end in one access,
a string store leaves the elements before the one it stops at, and no other instruction stores.
-/

namespace Sys2Proof.Machine

variable {s t u : State} {i : Instr} {p : Pred} {n m : Nat}

/-! ### Memory is left alone (R261, R278) -/

/-- But for the instructions that may store, every effect keeps memory. -/
theorem Effect.sameMemory (h : Effect i s t) (hi : mayStore s i = false) : SameMemory s t := by
  have hkept : ∀ u, Accessed i s u → SameMemory s u := fun u hu =>
    hu.mem.resolve_right (by rw [hi]; exact Bool.false_ne_true)
  cases h with
  | goesOn u len hu => exact hkept u hu
  | result u rt v len hu hd => intro a; simpa using hkept u hu a
  | trap u k v ret hu hr => intro a; simpa using hkept u hu a
  | flags | special | jump | call | loop | tlb | mask | leave => intro a; simp

/-- Settles O51: the data accesses of an instruction alone change memory, and only stores write. -/
theorem onlyStoresChangeMemory : Obligations.OnlyStoresChangeMemory :=
  fun _ _ _ h hi => (exec_effect h).sameMemory hi

/-! ### LWS (R269) -/

/-- The word on the bus is the little-endian number of its eight bytes (R73). -/
theorem State.busRead_word (s : State) (pa : Word) : s.busRead pa 8 = BitVec.ofNat 64 (littleEndian s pa 8) := by
  rw [← (busRead_littleEndian s pa 8 le_rfl).1, BitVec.ofNat_toNat, BitVec.setWidth_eq]

theorem State.loadSpr_of_reaches {a pa : Word} {e : Option (Fin 64)} (hp : s.holds p = true)
    (hr : Reaches s a 8 pa e) (spr : SprNum) (len : Nat) :
    s.loadSpr p a spr len = .next ((s.sprWrite spr (s.busRead pa 8)).advance len) := by
  unfold State.loadSpr
  rw [State.predicated_true hp, State.afterAccess_memRead, access_of_reaches _ _ _ _ _ _ hr]; rfl

/-- Settles O34: LWS ends in a special register write of the word read. -/
theorem lwsWritesTheSpecialRegister : Obligations.LwsWritesTheSpecialRegister := by
  intro s i f pa e hf hp hr
  refine ⟨_, (exec_of_lwsForm s i f hf).trans (State.loadSpr_of_reaches hp hr f.spr f.length), ?_⟩
  rw [State.busRead_word]
  exact sprWritten_of_sprWrite s f.spr _ f.length

/-! ### CAS (R306) -/

@[simp] theorem State.touched_busByte (s : State) (w : Bool) (e : Option (Fin 64)) (a : Word) :
    (s.touched w e).busByte a = s.busByte a := by
  unfold State.busByte
  rw [State.touched_kindAt, State.touched_now, State.touched_mem]

/-- A translation changes no byte on the bus. -/
@[simp] theorem State.touched_busRead (s : State) (w : Bool) (e : Option (Fin 64)) (pa : Word) (n : Nat) :
    (s.touched w e).busRead pa n = s.busRead pa n := by
  induction n with
  | zero => rfl
  | succ n ih => rw [State.busRead, State.busRead, ih, State.touched_busByte]

/-- The state in which CAS writes its target: the entry it went through marked dirty, and the new word stored if the old
one was the expected one. -/
def State.swapped (s : State) (pa : Word) (e : Option (Fin 64)) (expected new : Word) : State :=
  if s.busRead pa 8 = expected then (s.touched true e).busWrite pa new 8 else s.touched true e

theorem State.swapped_equal {pa x : Word} (h : s.busRead pa 8 = x) (e : Option (Fin 64)) (y : Word) :
    s.swapped pa e x y = (s.touched true e).busWrite pa y 8 := if_pos h

theorem State.swapped_unequal {pa x : Word} (h : s.busRead pa 8 ≠ x) (e : Option (Fin 64)) (y : Word) :
    s.swapped pa e x y = s.touched true e := if_neg h

theorem State.swapped_frame (s : State) (pa : Word) (e : Option (Fin 64)) (x y : Word) :
    s.swapped pa e x y =
      { s with mem := (s.swapped pa e x y).mem, lag := (s.swapped pa e x y).lag, tlb := dirtied s e } := by
  have hdirty : (s.touched true e).tlb = dirtied s e := s.touched_tlb true e
  by_cases h : s.busRead pa 8 = x
  · rw [State.swapped_equal h, State.busWrite_frame, State.touched_frame, hdirty]
  · rw [State.swapped_unequal h, State.touched_frame, hdirty]

theorem exec_of_casForm_reaches {f : CasForm} {pa : Word} {e : Option (Fin 64)} (hf : casForm s i = some f)
    (hp : s.holds f.pred = true) (hr : Reaches s f.address 8 pa e) :
    exec i s =
      .next (((s.swapped pa e f.expected f.new).setX f.target (s.busRead pa 8)).advance f.length) := by
  rw [exec_of_casForm s i f hf, State.predicated_true hp, State.afterAccess_memSwap,
    access_of_reaches _ _ _ _ _ _ hr]
  simp only [State.afterAccess, State.touched_busRead]
  rfl

/-- Settles O35: CAS goes through the state `swapped`, whose memory is written or not by the comparison. -/
theorem compareAndSwap : Obligations.CompareAndSwap := by
  intro s i f pa e hinv hf hp hr old
  have hold : s.busRead pa 8 = old := s.busRead_word pa
  have hframe := s.swapped_frame pa e f.expected f.new
  refine ⟨_, exec_of_casForm_reaches hf hp hr, fun r => ?_, fun heq => ?_, fun hne => ?_, ?_, ?_⟩
  · rw [hold, hframe]
    exact State.getX_setX _ f.target r old
  · rw [State.swapped_equal (hold.trans heq)]
    simp only [StoredAt, State.advance_mem, State.setX_mem]
    exact storedAt_of_busWrite hinv.memory e pa f.new le_rfl
  · intro a
    rw [State.advance_mem, State.setX_mem, State.swapped_unequal (hold ▸ hne), State.touched_mem]
  · rw [State.advance_tlb, State.setX_tlb, hframe]
  · rw [State.setX_frame, hframe]; rfl

/-! ### Where the bytes of an element lie (R76, R80, R87) -/

/-- Segmentation passes the offset in a block of 4096 bytes (R80). -/
theorem State.dataAddress_offset (s : State) (a : Word) : (s.dataAddress a).toNat % 4096 = a.toNat % 4096 := by
  unfold State.dataAddress
  split
  · rw [addSegment_toNat]; omega
  · rfl

/-- So does an entry of the TLB (R87). -/
theorem TlbEntry.physical_offset (e : TlbEntry) (q : BitVec 3) (sa : Word) :
    (e.physical q sa).toNat % 4096 = sa.toNat % 4096 := by
  unfold TlbEntry.physical
  rw [BitVec.toNat_append, ← Nat.shiftLeft_add_eq_or_of_lt (BitVec.isLt _), Nat.shiftLeft_eq,
    BitVec.extractLsb'_toNat, Nat.shiftRight_zero]
  omega

theorem State.lookup_offset {sa pa : Word} {e : Option (Fin 64)} (h : s.lookup sa = .hit pa e) :
    pa.toNat % 4096 = sa.toNat % 4096 := by
  unfold State.lookup at h
  split at h
  · split at h
    · cases h
    · cases h; exact TlbEntry.physical_offset _ _ sa
    · cases h
  · cases h; rfl

/-- An access whose width divides the page is aligned at its physical address too. -/
theorem reaches_aligned {a pa : Word} {e : Option (Fin 64)} (hr : Reaches s a n pa e) (hn : n ∣ 4096) :
    pa.toNat % n = 0 := by
  obtain ⟨halign, hlookup, -⟩ := hr
  rw [← Nat.mod_mod_of_dvd pa.toNat hn, State.lookup_offset hlookup, State.dataAddress_offset,
    Nat.mod_mod_of_dvd _ hn, halign]

/-- A byte of an aligned element tells its place in the element. -/
theorem byte_offset {pa : Word} (hn : n ∣ 4096) (ha : pa.toNat % n = 0) {j : Nat} (hj : j < n) :
    (pa + BitVec.ofNat 64 j).toNat % n = j := by
  have hpow : n ∣ 2 ^ 64 := hn.trans (by norm_num)
  rw [BitVec.toNat_add, BitVec.toNat_ofNat, Nat.add_mod_mod, Nat.mod_mod_of_dvd _ hpow, Nat.add_mod, ha, Nat.zero_add,
    Nat.mod_mod, Nat.mod_eq_of_lt hj]

/-! ### The elements of a string store (R300, R301) -/

theorem State.StringFrame.kindAt (h : s.StringFrame t) (pa : Word) : t.kindAt pa = s.kindAt pa := by
  obtain ⟨_, _, _, _, rfl⟩ := h.frame; rfl

theorem State.StringFrame.touched (h : s.StringFrame t) (w : Bool) (d : Option (Fin 64)) :
    s.StringFrame (t.touched w d) := by
  refine ⟨?_, fun hw => by simpa using h.wf hw, fun i => ?_⟩
  · obtain ⟨_, _, _, _, rfl⟩ := h.frame
    exact ⟨_, _, _, _, State.touched_frame _ w d⟩
  · rw [State.touched_entry, h.entry i]

/-- `u` is `s` after the first `m` elements of a string store, `n` bytes of `v` each. -/
structure AfterElements (s u : State) (n m : Nat) (pa : Nat → Word) (v : Word) : Prop where
  frame  : s.StringFrame u
  lc     : u.lc = s.lc - BitVec.ofNat 64 m
  stored : ElementsStored s u n m pa v

section
variable {a v : Word} {pa : Nat → Word} {e : Nat → Option (Fin 64)}

theorem AfterElements.zero (s : State) (n : Nat) (pa : Nat → Word) (v : Word) : AfterElements s s n 0 pa v :=
  ⟨.refl s, by simp, fun k hk => absurd hk k.not_lt_zero, fun _ _ => rfl⟩

theorem AfterElements.eq (h : AfterElements s u n m pa v) :
    u = { s with mem := u.mem, lag := u.lag, tlb := u.tlb, lc := s.lc - BitVec.ofNat 64 m } := by
  obtain ⟨⟨⟨lc, mem, lag, tlb, rfl⟩, -, -⟩, hlc, -⟩ := h
  rw [← hlc]

/-- One more element: where it overlaps one before it, alignment makes the byte stored the same. -/
theorem ElementsStored.element (h : ElementsStored s u n m pa v) (hw : Memory.wf u.mem = true) (hn : n ∣ 4096)
    (hn8 : n ≤ 8) (halign : ∀ k < m + 1, (pa k).toNat % n = 0)
    (hmem : ∀ j < n, u.kindAt (pa m + BitVec.ofNat 64 j) = .memory) (d : Option (Fin 64)) (l : Word) :
    ElementsStored s (((u.touched true d).busWrite (pa m) v n).setLc l) n (m + 1) pa v := by
  obtain ⟨hstored, hrest⟩ := h
  obtain ⟨hown, hother⟩ := storedAt_of_busWrite hw d (pa m) v hn8
  constructor
  · intro k hk j hj
    rw [State.setLc_mem]
    by_cases hlast : ∃ q < n, (pa k + BitVec.ofNat 64 j).toNat = (pa m + BitVec.ofNat 64 q).toNat
    · obtain ⟨q, hq, heq⟩ := hlast
      have hjq : j = q := by
        rw [← byte_offset hn (halign k hk) hj, heq, byte_offset hn (halign m m.lt_succ_self) hq]
      rw [heq, ← hjq]
      exact hown j hj (hmem j hj)
    · have hkm : k < m := lt_of_le_of_ne (Nat.le_of_lt_succ hk) fun hkm => hlast ⟨j, hj, by rw [hkm]⟩
      rw [hother _ fun q hq _ heq => hlast ⟨q, hq, heq⟩]
      exact hstored k hkm j hj
  · intro b hb
    rw [State.setLc_mem, hother b fun q hq _ => hb m m.lt_succ_self q hq]
    exact hrest b fun k hk => hb k (Nat.lt_succ_of_lt hk)

theorem AfterElements.succ (h : AfterElements s u n m pa v) (hw : Memory.wf s.mem = true) (hn : n ∣ 4096) (hn8 : n ≤ 8)
    (hr : ElementsReach s a n (m + 1) pa e) :
    AfterElements s (((u.touched true (e m)).busWrite (pa m) v n).setLc (u.lc - 1)) n (m + 1) pa v := by
  obtain ⟨hframe, hlc, hstored⟩ := h
  refine ⟨hframe.element _ _ _ _ _, ?_, hstored.element (hframe.wf hw) hn hn8
    (fun k hk => reaches_aligned (hr k hk).1 hn) (fun j hj => ?_) (e m) _⟩
  · rw [State.setLc_lc, hlc, BitVec.ofNat_add]
    bv_omega
  · obtain ⟨-, hmem⟩ := hr m m.lt_succ_self
    rw [hframe.kindAt]
    exact hmem j hj

/-- An element that reaches the bus is stored, and the loop goes on with the counter one less. -/
theorem State.fill_element {d : Option (Fin 64)} {pb : Word} (hr : Reaches s a n pb d) (v : Word) (c : Nat) :
    s.fill a v n (c + 1) =
      (((s.touched true d).busWrite pb v n).setLc (s.lc - 1)).fill (a + BitVec.ofNat 64 n) v n c := by
  rw [State.fill, State.memWrite, access_of_reaches _ _ _ _ _ _ hr]
  simp

/-- The loop goes through the elements that reach the bus and then stands at the next one. -/
theorem exists_afterElements (hw : Memory.wf s.mem = true) (hn : n ∣ 4096) (hn8 : n ≤ 8)
    (hr : ElementsReach s a n m pa e) (v : Word) :
    ∃ u, AfterElements s u n m pa v ∧
      ∀ c, s.fill a v n (m + c) = u.fill (a + BitVec.ofNat 64 (n * m)) v n c := by
  induction m with
  | zero => exact ⟨s, .zero s n pa v, fun c => by simp⟩
  | succ m ih =>
    obtain ⟨u, hu, hfill⟩ := ih fun k hk => hr k (Nat.lt_succ_of_lt hk)
    have hreach := hu.frame.reaches (hr m m.lt_succ_self).1
    refine ⟨_, hu.succ hw hn hn8 hr, fun c => ?_⟩
    rw [show m + 1 + c = m + (c + 1) by omega, hfill, State.fill_element hreach, Nat.mul_succ, BitVec.ofNat_add,
      BitVec.add_assoc]

end

/-! ### How a string store ends (R300 to R302, R376) -/

section
variable {ra rb : Reg} {pa : Nat → Word} {e : Nat → Option (Fin 64)}

theorem elementBytes_of_stringStore (hi : (n = 1 ∧ i = .stsb p ra rb) ∨ (n = 8 ∧ i = .stsw p ra rb)) :
    n ∣ 4096 ∧ n ≤ 8 := by
  obtain ⟨rfl, -⟩ | ⟨rfl, -⟩ := hi <;> decide

/-- A string store all of whose elements reach memory goes on behind itself. -/
theorem exec_stringStore_completes (hinv : s.Inv) (hi : (n = 1 ∧ i = .stsb p ra rb) ∨ (n = 8 ∧ i = .stsw p ra rb))
    (hp : s.holds p = true) (hr : ElementsReach s (s.getX ra) n s.lc.toNat pa e) :
    ∃ u, AfterElements s u n s.lc.toNat pa (s.getX rb) ∧ exec i s = .next (u.advance 4) := by
  obtain ⟨hn, hn8⟩ := elementBytes_of_stringStore hi
  obtain ⟨u, hu, hfill⟩ := exists_afterElements hinv.memory hn hn8 hr (s.getX rb)
  refine ⟨u, hu, ?_⟩
  have hdone : s.fill (s.getX ra) (s.getX rb) n s.lc.toNat = .ok () u := hfill 0
  rw [exec_of_stringStore hi, State.stringStore, State.predicated_true hp, hdone]; rfl

/-- A string store whose next element takes an exception ends with it, the earlier elements stored (D45). -/
theorem exec_stringStore_traps (hinv : s.Inv) (hi : (n = 1 ∧ i = .stsb p ra rb) ∨ (n = 8 ∧ i = .stsw p ra rb))
    (hp : s.holds p = true) (hm : m < s.lc.toNat) (hr : ElementsReach s (s.getX ra) n m pa e) :
    ∃ u, AfterElements s u n m pa (s.getX rb) ∧
      ∀ w y, u.access true (s.getX ra + BitVec.ofNat 64 (n * m)) n = .trap w y →
        exec i s = .next (y.enter .exception w s.pc) := by
  obtain ⟨hn, hn8⟩ := elementBytes_of_stringStore hi
  obtain ⟨u, hu, hfill⟩ := exists_afterElements hinv.memory hn hn8 hr (s.getX rb)
  refine ⟨u, hu, fun w y hy => ?_⟩
  have hstop : s.fill (s.getX ra) (s.getX rb) n s.lc.toNat = .trap w y := by
    rw [show s.lc.toNat = m + (s.lc.toNat - m - 1 + 1) by omega, hfill, State.fill, State.memWrite, hy]
  rw [exec_of_stringStore hi, State.stringStore, State.predicated_true hp, hstop]; rfl

/-- A trap taken in a state `y`, in the words of the claims on string stores. -/
theorem trapFrom_of_eq {y : State} {lc : Word} {q : TlbRegs}
    (hy : y = { s with mem := y.mem, lag := y.lag, tlb := y.tlb, lc := lc, tlbRegs := q }) (v : BitVec 8) (ret : Word) :
    let t := y.enter .exception v ret
    TrapFrom { s with mem := t.mem, lag := t.lag, tlb := t.tlb, lc := lc, tlbRegs := q } t 13 v ret := by
  have htrap := enter_trapFrom y .exception v ret
  simp only [State.enter_mem, State.enter_lag, State.enter_tlb]
  rw [← hy]
  exact htrap

end

/-- Settles O36: every element goes through, so the loop ends after as many as the counter says. -/
theorem stringStoresFill : Obligations.StringStoresFill := by
  intro s p ra rb n i pa e hinv hi hp hr
  obtain ⟨u, hu, hexec⟩ := exec_stringStore_completes hinv hi hp hr
  refine ⟨_, hexec, ?_, ?_, hu.stored, hu.frame.entry, ?_⟩
  · rw [State.advance_lc, hu.lc, BitVec.ofNat_toNat, BitVec.setWidth_eq, BitVec.sub_self]; rfl
  · rw [State.advance_pc, hu.eq]; rfl
  · rw [hu.eq]; rfl

/-- Settles O37: the elements before it keep the translations, so the element misses there too, and its trap is taken in
the state after them with the miss recorded. -/
theorem stringStoreMissKeepsProgress : Obligations.StringStoreMissKeepsProgress := by
  intro s p ra rb n m i pa e hinv hi hp hm hr a halign hmiss
  obtain ⟨u, hu, htraps⟩ := exec_stringStore_traps hinv hi hp hm hr
  have haccess : u.access true a n = .trap vecDtlbMiss (u.recordDataMiss (s.dataAddress a)) := by
    rw [← hu.frame.dataAddress]
    exact State.access_miss halign (by rw [hu.frame.lookup, hu.frame.dataAddress, hmiss])
  refine ⟨_, htraps _ _ haccess, ?_, ?_, trapFrom_of_eq ?_ _ _⟩
  · simpa only [ElementsStored, State.enter_mem, State.recordDataMiss_mem] using hu.stored
  · simpa only [SameEntriesButDirty, State.enter_tlb, State.recordDataMiss_tlb] using hu.frame.entry
  · rw [State.recordDataMiss_eq, hu.eq]

/-- Settles O38: as for a miss, with the entry of the failing element marked dirty. -/
theorem stringStoreBusErrorKeepsProgress : Obligations.StringStoreBusErrorKeepsProgress := by
  intro s p ra rb n m i pa e hinv hi hp hm hr a halign pb d j hhit hj hfail
  obtain ⟨u, hu, htraps⟩ := exec_stringStore_traps hinv hi hp hm hr
  have haccess : u.access true a n = .trap vecBusData (u.touched true d) :=
    State.access_failing halign (by rw [hu.frame.lookup, hu.frame.dataAddress, hhit])
      (State.busError_of_dataFails hj (by rw [hu.frame.dataFails, hfail]))
  refine ⟨_, htraps _ _ haccess, ?_, ?_, ?_, trapFrom_of_eq ?_ _ _⟩
  · simpa only [ElementsStored, State.enter_mem, State.touched_mem] using hu.stored
  · simpa only [SameEntriesButDirty, State.enter_tlb] using (hu.frame.touched true d).entry
  · rintro w rfl
    simp only [State.enter_tlb, State.touched_tlb, if_true, dirtied, Vector.getElem_set_self]
  · rw [State.touched_frame, hu.eq]

end Sys2Proof.Machine
end

section
/-!
PROOFS. The system instructions (45_system.md R321 to R333, R341): returns from traps, the interrupt mask, and writes of
special registers.
-/

namespace Sys2Proof.Machine

variable {s : State} {i : Instr} {p : Pred}

/-! ### RTE and RTI (R332, R333, R382) -/

theorem exec_rte (hp : s.holds p = true) : exec (.rte p) s = .next (s.leave .exception) :=
  State.predicated_true hp 2 _

theorem exec_rti (hp : s.holds p = true) : exec (.rti p) s = .next (s.leave .interrupt) :=
  State.predicated_true hp 2 _

theorem State.leave_frame (s : State) (k : TrapKind) :
    s.leave k = { s with pc := (s.leave k).pc, sr := (s.leave k).sr, lag := (s.leave k).lag } := by
  cases k <;> rfl

theorem State.leave_sameMemory (s : State) (k : TrapKind) : SameMemory s (s.leave k) := fun a => by
  rw [State.leave_mem]

/-- A return of either kind leaves the backup half as it was. -/
theorem State.leave_statusBackup (s : State) (k : TrapKind) : (s.leave k).statusBackup = s.statusBackup := by
  cases k <;> exact status_backup _ _

theorem State.leave_exception_statusLow (s : State) : (s.leave .exception).statusLow = s.statusBackup :=
  status_low _ _

/-- The mask 7FFFh clears IM, bit 15, and passes the rest of the half. -/
theorem unmasked_bit (l : BitVec 16) {k : Nat} (hk : k < 16) :
    (l &&& 0x7FFF#16).getLsbD k = (decide (k ≠ 15) && l.getLsbD k) := by
  have hmask : (0x7FFF#16).getLsbD k = decide (k ≠ 15) := by revert hk; revert k; decide
  rw [BitVec.getLsbD_and, hmask, Bool.and_comm]

/-- The mask 8000h sets IM, bit 15, and passes the rest of the half. -/
theorem masked_bit (l : BitVec 16) {k : Nat} (hk : k < 16) :
    (l ||| 0x8000#16).getLsbD k = (decide (k = 15) || l.getLsbD k) := by
  have hmask : (0x8000#16).getLsbD k = decide (k = 15) := by revert hk; revert k; decide
  rw [BitVec.getLsbD_or, hmask, Bool.or_comm]

theorem State.statusLow_bit (s : State) {k : Nat} (hk : k < 16) : s.statusLow.getLsbD k = s.sr.getLsbD k := by
  rw [State.statusLow, BitVec.getLsbD_extractLsb', decide_eq_true hk, Bool.true_and, Nat.zero_add]

theorem State.statusBackup_bit (s : State) {k : Nat} (hk : k < 16) :
    s.statusBackup.getLsbD k = s.sr.getLsbD (k + 16) := by
  rw [State.statusBackup, BitVec.getLsbD_extractLsb', decide_eq_true hk, Bool.true_and, Nat.add_comm]

theorem State.leave_interrupt_bit (s : State) {k : Nat} (hk : k < 16) :
    (s.leave .interrupt).sr.getLsbD k = (decide (k ≠ 15) && s.sr.getLsbD (k + 16)) := by
  rw [State.leave_interrupt_sr, status_bit, if_pos hk, unmasked_bit _ hk, s.statusBackup_bit hk]

/-- Settles O29: both are `State.leave`, of the kind whose link they read; RTI masks the half that it restores. -/
theorem returnsRestoreStatus : Obligations.ReturnsRestoreStatus := by
  intro s p hp
  refine ⟨rfl, rfl, ⟨_, exec_rte hp, s.leave_pc .exception, s.leave_exception_statusLow, s.leave_statusBackup _,
    s.leave_frame _, s.leave_sameMemory _⟩, ?_⟩
  exact ⟨_, exec_rti hp, s.leave_pc .interrupt, fun k hk => s.leave_interrupt_bit hk, s.leave_statusBackup _,
    s.leave_frame _, s.leave_sameMemory _⟩

/-! ### SYS and the return from it (R330, R332, R376, R397) -/

theorem exec_sys (hp : s.holds p = true) (vec : BitVec 8) :
    exec (.sys p vec) s = .next (s.enter .exception vec (s.pc + 4)) :=
  State.predicated_true hp 4 _

/-- Entering a trap changes neither a predicate register nor the external signal. -/
theorem State.enter_holds (s : State) (k : TrapKind) (v : BitVec 8) (ret : Word) (q : Pred) :
    (s.enter k v ret).holds q = s.holds q := by
  unfold State.holds
  rw [State.getP_congr (s.enter_p k v ret), State.enter_pins]

theorem State.enter_statusBackup (s : State) (k : TrapKind) (v : BitVec 8) (ret : Word) :
    (s.enter k v ret).statusBackup = s.statusLow :=
  status_backup _ _

/-- Settles O30: SYS saves what RTE restores, the address in EPC and the status in the backup half. -/
theorem sysThenRteComesBack : Obligations.SysThenRteComesBack := by
  intro s p q vec hp hq
  obtain ⟨-, hkm, him⟩ := enter_status (s := s) rfl .exception vec (s.pc + 4)
  refine ⟨_, _, exec_sys hp vec, exec_rte ((s.enter_holds _ _ _ q).trans hq), hkm, him, ?_, ?_, fun r => ?_,
    fun r => ?_, fun a => ?_⟩
  · rw [State.leave_pc]
    exact s.enter_getBr_link .exception vec _
  · rw [State.leave_exception_statusLow, State.enter_statusBackup]
  · exact State.getX_congr ((State.leave_x _ _).trans (s.enter_x _ _ _)) r
  · exact State.getP_congr ((State.leave_p _ _).trans (s.enter_p _ _ _)) r
  · rw [State.leave_mem, State.enter_mem]

/-! ### CLI and SEI (R324, R325) -/

/-- Setting the interrupt mask writes bit 15 of SR; the other bits of both halves keep their values. -/
theorem State.setIm_bit (s : State) (b : Bool) (k : Nat) :
    (s.setIm b).sr.getLsbD k = if k = 15 then b else s.sr.getLsbD k := by
  rw [State.setIm, State.setStatus_sr, status_bit]
  by_cases hk : k < 16
  · rw [if_pos hk, ← s.statusLow_bit hk]
    cases b with
    | true => rw [if_pos rfl, masked_bit _ hk]; split <;> simp [*]
    | false => rw [if_neg Bool.false_ne_true, unmasked_bit _ hk]; split <;> simp [*]
  · rw [if_neg hk, if_neg (by omega), s.sr_eq_append, status_bit, if_neg hk]

/-- `i` completes: it leaves `b` in IM, bit 15 of SR, and goes on 2 bytes further; all else keeps its value. -/
def WritesIm (i : Instr) (s : State) (b : Bool) : Prop :=
  ∃ t, exec i s = .next t ∧
    (∀ k < 32, t.sr.getLsbD k = if k = 15 then b else s.sr.getLsbD k) ∧
    t = { s with sr := t.sr, pc := s.pc + 2 } ∧ SameMemory s t

theorem writesIm_of_setIm {b : Bool} (h : exec i s = .next ((s.setIm b).advance 2)) : WritesIm i s b :=
  ⟨_, h, fun k _ => s.setIm_bit b k, rfl, fun _ => rfl⟩

/-- Settles O31: each is one write of IM. -/
theorem interruptMaskInstructions : Obligations.InterruptMaskInstructions := by
  intro s p hp
  exact ⟨writesIm_of_setIm (State.predicated_true hp 2 _), writesIm_of_setIm (State.predicated_true hp 2 _)⟩

/-! ### MTSPR, MOVS and LDIS (R321 to R323, R341) -/

theorem sprWritten_of_writeSpr {n : SprNum} {v : Word} {len : Nat} (hp : s.holds p = true)
    (h : exec i s = s.writeSpr p n v len) : ∃ t, exec i s = .next t ∧ SprWritten s t n v len :=
  ⟨_, h.trans (State.predicated_true hp len _), sprWritten_of_sprWrite s n v len⟩

/-- Settles O44: the four forms end in `State.writeSpr`; they differ in the value and the length. -/
theorem specialRegistersWritten : Obligations.SpecialRegistersWritten := by
  intro s p ra m n b hp
  have hldis : exec (.ldis p n b) s = s.writeSpr p n (b.signExtend 64) 4 := rfl
  refine ⟨sprWritten_of_writeSpr hp (i := .mtspr p ra n) rfl, sprWritten_of_writeSpr hp (i := .movs p m n) rfl,
    sprWritten_of_writeSpr hp hldis, fun i l imm hi => ?_⟩
  exact sprWritten_of_writeSpr hp (exec_of_prefixParts i l imm _ s hi)

end Sys2Proof.Machine
end

section
/-!
PROOFS. The TLB instruction (46_tlb.md R350 to R362): each command ends as every TLB command does, so what is left is
which entry it names, what it finds there, and the widths of the TLB registers (10_state.md R52 to R62).
-/

namespace Sys2Proof.Machine

variable {s t : State} {i : Instr} {p : Pred}

/-! ### How a TLB command ends (R16, R350) -/

theorem exec_tlbCommand (hp : s.holds p = true) (h : exec i s = s.tlbCommand p t) :
    exec i s = .next (t.advance 4) :=
  h.trans (State.predicated_true hp 4 _)

/-! ### TLBWI, TLBRD, TLBEN and TLBDIS (R354, R356 to R358) -/

/-- Index names an entry by its six low bits (R59, R354; log entry 22). -/
theorem State.indexEntry_eq {j : Fin 64} (h : s.tlbRegs.index.toNat % 64 = j.val) : s.indexEntry = j :=
  Fin.ext ((BitVec.extractLsb'_toNat 0 6 _).trans h)

theorem State.setTlb_entry (s : State) (j k : Fin 64) (e : TlbEntry) :
    (s.setTlb j e).tlb[k.val]'k.isLt = if k = j then e else s.tlb[k.val]'k.isLt := by
  simp only [State.setTlb_tlb, Vector.getElem_set, Fin.val_inj, eq_comm]

/-- Settles O45: the commands are single updates of the state, two of them at the entry that Index names. -/
theorem tlbEntryCommands : Obligations.TlbEntryCommands := by
  intro s p tn r j hp hj
  have hentry := State.indexEntry_eq hj
  refine ⟨⟨_, exec_tlbCommand hp rfl, rfl, fun k => ?_⟩, ?_, exec_tlbCommand (t := s.setTlbEnabled true) hp rfl,
    exec_tlbCommand (t := s.setTlbEnabled false) hp rfl⟩
  · rw [← hentry]
    exact s.setTlb_entry _ k _
  · rw [← hentry]
    exact exec_tlbCommand (t := s.readEntry) hp rfl

/-! ### TLBWR (R355, R58, R62, D48) -/

/-- While Wired is below 8, TLBRandom draws a way that is not wired. -/
theorem State.randomWay_ge (h : s.tlbRegs.wired.toNat < 8) : s.tlbRegs.wired.toNat ≤ s.randomWay.toNat := by
  have hdraw : Config.randomDraw s.now % (8 - s.tlbRegs.wired.toNat) < 8 - s.tlbRegs.wired.toNat :=
    Nat.mod_lt _ (by omega)
  rw [State.randomWay, if_pos h, BitVec.toNat_ofNat, Nat.mod_eq_of_lt (by omega)]
  exact Nat.le_add_right _ _

/-- The set of the held page: its three lowest significant bits, which a page size of N finds above 2N bits. -/
theorem State.heldSet_toNat (s : State) :
    s.heldSet.toNat = s.tlbRegs.virtPage.toNat / 2 ^ (2 * s.tlbRegs.pageSize.toNat) % 8 := by
  rw [State.heldSet, BitVec.extractLsb'_toNat, Nat.shiftRight_eq_div_pow]
  rfl

/-- Two fields put together, as a number. -/
theorem toNat_append_eq {m n : Nat} (a : BitVec m) (b : BitVec n) : (a ++ b).toNat = 2 ^ n * a.toNat + b.toNat := by
  rw [BitVec.toNat_append, ← Nat.shiftLeft_add_eq_or_of_lt b.isLt, Nat.shiftLeft_eq, Nat.mul_comm]

/-- The entry that TLBWR writes: the held set of a random way. -/
def State.randomEntry (s : State) : Fin 64 := (s.randomWay ++ s.heldSet : BitVec 6).toFin

theorem State.writeRandom_unwired (h : s.tlbRegs.wired.toNat < 8) :
    s.writeRandom = s.setTlb s.randomEntry s.heldEntry := if_pos h

theorem State.writeRandom_wired (h : 8 ≤ s.tlbRegs.wired.toNat) : s.writeRandom = s := if_neg (Nat.not_lt.mpr h)

theorem State.randomEntry_val (s : State) :
    s.randomEntry.val =
      8 * s.randomWay.toNat + s.tlbRegs.virtPage.toNat / 2 ^ (2 * s.tlbRegs.pageSize.toNat) % 8 := by
  rw [← s.heldSet_toNat]
  exact toNat_append_eq _ _

/-- Settles O46: the way and the entry are those of the draw, and with every way wired `State.writeRandom` does
nothing. -/
theorem tlbRandomWrite : Obligations.TlbRandomWrite := by
  intro s p tn r hp _
  have hexec : exec (.tlbwr p tn r) s = .next (s.writeRandom.advance 4) := exec_tlbCommand hp rfl
  refine ⟨fun hw => ?_, fun hw => ?_⟩
  · rw [State.writeRandom_unwired hw] at hexec
    have hself : ((s.setTlb s.randomEntry s.heldEntry).advance 4).tlb[s.randomEntry.val]'s.randomEntry.isLt =
        s.heldEntry := (s.setTlb_entry _ _ _).trans (if_pos rfl)
    exact ⟨s.randomWay.toNat, s.randomEntry, _, State.randomWay_ge hw, s.randomWay.isLt, s.randomEntry_val, hexec,
      rfl, congrArg TlbEntry.vpn hself, congrArg TlbEntry.ppn hself, congrArg TlbEntry.asid hself,
      congrArg TlbEntry.c hself, congrArg TlbEntry.g hself, congrArg TlbEntry.d hself, congrArg TlbEntry.v hself,
      fun j hj => (s.setTlb_entry _ _ _).trans (if_neg hj)⟩
  · rw [State.writeRandom_wired hw] at hexec
    exact hexec

/-! ### TLBPB (R353, D49) -/

/-- What a probe finds: no entry matches the holding registers, or it names one that does. -/
theorem State.probeResult_cases (s : State) :
    ((∀ j, j ∉ s.tlbHits s.tlbRegs.asid.asid (s.tlbRegs.virtPage.extractLsb' 0 52)) ∧
      s.probeResult = 0x8000000000000000) ∨
    ∃ j ∈ s.tlbHits s.tlbRegs.asid.asid (s.tlbRegs.virtPage.extractLsb' 0 52),
      s.probeResult = BitVec.ofNat 64 j.val := by
  unfold State.probeResult
  obtain ⟨hnone, hpick⟩ | ⟨j, hj, hpick⟩ := pickHit_cases
    (s.tlbHits s.tlbRegs.asid.asid (s.tlbRegs.virtPage.extractLsb' 0 52)) (Config.probeChoice s.now)
  · rw [hpick, hnone]
    exact .inl ⟨fun _ => List.not_mem_nil, rfl⟩
  · rw [hpick]
    exact .inr ⟨j, hj, rfl⟩

/-- An entry matches the holding registers: R86 with their page and ASID. -/
theorem mem_tlbHits_held_iff (s : State) (j : Fin 64) :
    j ∈ s.tlbHits s.tlbRegs.asid.asid (s.tlbRegs.virtPage.extractLsb' 0 52) ↔
      (s.tlb[j.val]'j.isLt).v = true ∧
      ((s.tlb[j.val]'j.isLt).g = true ∨ (s.tlb[j.val]'j.isLt).asid = s.tlbRegs.asid.asid) ∧
      ∀ k < 52, 2 * s.tlbRegs.pageSize.toNat ≤ k →
        (s.tlb[j.val]'j.isLt).vpn.getLsbD k = s.tlbRegs.virtPage.getLsbD k := by
  have hbit : ∀ k < 52, (s.tlbRegs.virtPage.extractLsb' 0 52).getLsbD k = s.tlbRegs.virtPage.getLsbD k := by
    intro k hk
    rw [BitVec.getLsbD_extractLsb', decide_eq_true hk, Bool.true_and, Nat.zero_add]
  rw [mem_tlbHits_iff]
  refine and_congr_right fun _ => and_congr_right fun _ => forall₂_congr fun k hk => ?_
  rw [hbit k hk]

/-- Settles O47: Index gets the result of the probe. -/
theorem tlbProbe : Obligations.TlbProbe := by
  intro s p tn r hp _
  have hexec : exec (.tlbpb p tn r) s =
      .next ((s.setTlbRegs { s.tlbRegs with index := s.probeResult }).advance 4) := exec_tlbCommand hp rfl
  refine ⟨s.probeResult, hexec, ?_⟩
  simp only [← mem_tlbHits_held_iff]
  exact s.probeResult_cases

/-! ### TLBRDREG and TLBWRREG (R351, R359, R360) -/

theorem writesX_of_tlbRegRead (hp : s.holds p = true) {tn : BitVec 4} {v : Word} (r : Reg)
    (h : s.tlbRegRead tn = some v) : WritesX (.tlbrdreg p tn r) s r v 4 :=
  writesX_of_result _ s r v 4 ((State.predicated_true hp 4 _).trans (by rw [h]))

theorem exec_tlbwrreg (hp : s.holds p = true) {tn : BitVec 4} {r : Reg} {q : TlbRegs}
    (h : s.tlbRegWrite tn (s.getX r) = .ok (s.setTlbRegs q)) :
    exec (.tlbwrreg p tn r) s = .next { s with tlbRegs := q, pc := s.pc + 4 } :=
  (State.predicated_true hp 4 _).trans (by rw [h]; rfl)

theorem State.tlbRegRead_wired (s : State) : s.tlbRegRead 0 = some (BitVec.ofNat 64 s.tlbRegs.wired.toNat) := by
  rw [BitVec.ofNat_toNat]; rfl

theorem State.tlbRegRead_random (s : State) : s.tlbRegRead 2 = some (BitVec.ofNat 64 s.randomWay.toNat) := by
  rw [BitVec.ofNat_toNat]; rfl

theorem State.tlbRegRead_pageSize (s : State) :
    s.tlbRegRead 3 = some (BitVec.ofNat 64 s.tlbRegs.pageSize.toNat) := by
  rw [BitVec.ofNat_toNat]; rfl

/-- The fields of TLBASID at their places in the word (R55). -/
theorem TlbAsid.toWord_toNat (a : TlbAsid) :
    a.toWord.toNat = a.asid.toNat * 256 + a.c.toNat * 16 + a.g.toNat * 4 + a.d.toNat * 2 + a.v.toNat := by
  simp only [TlbAsid.toWord, toNat_append_eq, BitVec.toNat_ofBool, BitVec.toNat_ofNat]
  omega

theorem TlbAsid.toWord_eq (a : TlbAsid) :
    a.toWord = BitVec.ofNat 64 (a.asid.toNat * 256 + a.c.toNat * 16 + a.g.toNat * 4 + a.d.toNat * 2 + a.v.toNat) := by
  rw [← a.toWord_toNat, BitVec.ofNat_toNat, BitVec.setWidth_eq]

theorem State.tlbRegWrite_wired (s : State) (v : Word) :
    s.tlbRegWrite 0 v = .ok (s.setTlbRegs { s.tlbRegs with wired := v.extractLsb' 0 4 }) := by
  rw [← BitVec.setWidth_eq_extractLsb' (by decide)]; rfl

/-- The page size is the value's low three bits, and the write is defined while they name one of 0 to 4 (R60; log entry
14). -/
theorem State.tlbRegWrite_pageSize (s : State) {v : Word} (h : v.toNat % 8 ≤ 4) :
    s.tlbRegWrite 3 v = .ok (s.setTlbRegs { s.tlbRegs with pageSize := v.extractLsb' 0 3 }) := by
  rw [← BitVec.setWidth_eq_extractLsb' (by decide)]
  exact if_pos (by rw [BitVec.toNat_setWidth]; exact h)

/-- Settles O48: the narrow registers by the lemmas above, the 64-bit ones by `State.tlbRegRead` and `State.tlbRegWrite`
as they stand. -/
theorem tlbRegisterCommands : Obligations.TlbRegisterCommands := by
  intro s p r hp
  have hread : ∀ {tn : BitVec 4} {v : Word}, s.tlbRegRead tn = some v → WritesX (.tlbrdreg p tn r) s r v 4 :=
    fun h => writesX_of_tlbRegRead hp r h
  have hrandom : ∃ w : Nat, w < 8 ∧ (s.tlbRegs.wired.toNat < 8 → s.tlbRegs.wired.toNat ≤ w) ∧
      WritesX (.tlbrdreg p 2 r) s r (BitVec.ofNat 64 w) 4 :=
    ⟨s.randomWay.toNat, s.randomWay.isLt, State.randomWay_ge, hread s.tlbRegRead_random⟩
  have hasid := hread (tn := 7) rfl
  rw [TlbAsid.toWord_eq] at hasid
  refine ⟨hread s.tlbRegRead_wired, hread rfl, hrandom, hread s.tlbRegRead_pageSize, hread rfl, hread rfl, hasid,
    hread rfl, hread rfl, hread rfl, hread rfl, ?_⟩
  exact ⟨exec_tlbwrreg hp (s.tlbRegWrite_wired _), exec_tlbwrreg hp rfl, exec_tlbwrreg hp rfl,
    fun hv => exec_tlbwrreg hp (s.tlbRegWrite_pageSize hv), exec_tlbwrreg hp rfl, exec_tlbwrreg hp rfl,
    exec_tlbwrreg hp rfl, exec_tlbwrreg hp rfl, exec_tlbwrreg hp rfl, exec_tlbwrreg hp rfl, exec_tlbwrreg hp rfl⟩

end Sys2Proof.Machine
end

section
/-!
PROOFS. NMI and IRQ (60_exceptions.md R384, R385, R390): each is a branch of the boundary that ends the step by entering
the interrupt.
-/

namespace Sys2Proof.Machine

variable {s : State}

theorem step_of_boundary_taken {t : State} (h : s.boundary = .taken t) : step s = .next t := by
  simp only [step, h]

/-- NMI is taken on the rising edge of `nmi_i`, masked or not. -/
theorem State.boundary_of_nmi (hrst : (nextPins s.now s.schedule).rst = false)
    (hnmi : (nextPins s.now s.schedule).nmi = true) (hlow : s.pins.nmi = false) :
    s.boundary = .taken (s.sample.enter .interrupt vecNmi s.pc) := by
  have noReset : ¬(s.sample.pins.rst = true) := by simp [hrst]
  have edge : (s.sample.pins.nmi && !s.pins.nmi) = true := by simp [hnmi, hlow]
  unfold State.boundary
  dsimp only
  rw [if_neg noReset, if_pos edge, State.sample_pc]

/-- IRQ is taken at its level when `nmi_i` does not rise and IM is 0. -/
theorem State.boundary_of_irq (hrst : (nextPins s.now s.schedule).rst = false)
    (hnmi : (nextPins s.now s.schedule).nmi = true → s.pins.nmi = true)
    (hirq : (nextPins s.now s.schedule).irq = true) (him : s.sr.getLsbD 15 = false) :
    s.boundary = .taken (s.sample.enter .interrupt (nextPins s.now s.schedule).vec s.pc) := by
  have noReset : ¬(s.sample.pins.rst = true) := by simp [hrst]
  have noEdge : ¬((s.sample.pins.nmi && !s.pins.nmi) = true) := by simpa using hnmi
  have unmasked : (s.sample.pins.irq && !s.sample.im) = true := by
    simpa [State.im, hirq] using him
  unfold State.boundary
  dsimp only
  rw [if_neg noReset, if_neg noEdge, if_pos unmasked, State.sample_pc, State.sample_pins]

/-- Settles O9: the boundary takes either interrupt, and entering it is the trap claimed. -/
theorem interruptsAreTaken : Obligations.InterruptsAreTaken := by
  intro s hrst
  have htrap : ∀ v, TrapFrom s.sample (s.sample.enter .interrupt v s.pc) 14 v s.pc :=
    fun v => enter_trapFrom s.sample .interrupt v s.pc
  exact ⟨fun hnmi hlow => ⟨_, step_of_boundary_taken (State.boundary_of_nmi hrst hnmi hlow), htrap _⟩,
    fun hnmi hirq him => ⟨_, step_of_boundary_taken (State.boundary_of_irq hrst hnmi hirq him), htrap _⟩⟩

end Sys2Proof.Machine
end

section
/-!
PROOFS. Reset by `rst_i` (70_reset_and_hazards.md R420, R421): it is the first branch of the boundary, and it ends the step
in `State.warmReset`.
-/

namespace Sys2Proof.Machine

variable {s : State}

/-- Reset is taken before any interrupt, and whatever the next instruction is. -/
theorem State.boundary_of_reset (hrst : (nextPins s.now s.schedule).rst = true) :
    s.boundary = .taken s.sample.warmReset := by
  have reset : s.sample.pins.rst = true := by simp [hrst]
  unfold State.boundary
  dsimp only
  rw [if_pos reset]

/-- EPC and IPC go through the step's inputs and the reset unchanged. -/
theorem State.sample_warmReset_getBr_link (s : State) (k : TrapKind) :
    s.sample.warmReset.getBr k.link = s.getBr k.link := by
  rw [State.warmReset_getBr_link, State.getBr_congr s.sample_br (by cases k <;> decide)]

theorem State.warmReset_statusLow (s : State) : s.warmReset.statusLow = resetStatus := by
  rw [State.statusLow, State.warmReset_sr, status_low]

theorem State.warmReset_statusBackup (s : State) : s.warmReset.statusBackup = s.statusBackup := by
  rw [State.statusBackup, State.warmReset_sr, status_backup]

theorem State.warmReset_sameMemory (s : State) : SameMemory s s.warmReset := fun a => by
  rw [State.warmReset_mem]

/-- Settles O8: the boundary takes the reset, and each value is one that `State.warmReset` sets or keeps. -/
theorem resetPinResets : Obligations.ResetPinResets := by
  intro s hrst
  refine ⟨s.sample.warmReset, step_of_boundary_taken (State.boundary_of_reset hrst), s.sample.warmReset_pc,
    s.sample.warmReset_statusLow, s.sample.warmReset_statusBackup, s.sample.warmReset_tlbEnabled,
    s.sample_warmReset_getBr_link .exception, s.sample_warmReset_getBr_link .interrupt, State.getX_zero _,
    State.getBr_zero _, ?_, s.sample.warmReset_sameMemory⟩
  rw [State.warmReset_cfg, State.sample_cfg]

end Sys2Proof.Machine
end
